-- ==== Sys2Proof/Word.lean ====
section
/-! DEFINITION. The value types of the block: bytes, the 16-bit command word, the 32-bit interface
registers and byte sequences (`spec/00_scope.md` R10, R12; `spec/10_state.md` R32). -/

namespace Sys2Proof

/-- An 8-bit byte, bit 7 the most significant (R11). -/
abbrev Byte := BitVec 8

/-- A 16-bit host command word `CMD` (R84). -/
abbrev Half := BitVec 16

/-- A 32-bit interface register: DIN, DOUT, RESULT (R32). -/
abbrev Word := BitVec 32

/-- A byte sequence (`Seq`, R12): a finite list of bytes, index 0 first. -/
abbrev Bytes := List Byte

end Sys2Proof
end

