-- ==== Sys2Proof/Config.lean ====
section
/-! DEFINITION. The three parameters of the block (`spec/00_scope.md` R5, R7, R9; `spec/93_implementation_defined.md`
P1 to P3), as data, and the values this machine takes. The operations of `Sys2Proof/Machine/` take a `Params`, so
that a statement may be made for every admitted parameter set; `exec` and `step` use `Config.params`. -/

namespace Sys2Proof

/-- The parameters a model of the block takes. They are fixed for a machine and are not state (R270). -/
structure Params where
  /-- LOGICAL_ADDR_MIN (R5): bytes below it at the front of a packet are path bytes. -/
  logicalAddrMin : Byte
  /-- STATUS_VALID (R7): the status codes REPLY accepts. -/
  statusValid : List Byte
  /-- CAP (R9): the largest length of any byte sequence the block holds or produces. -/
  cap : Nat
deriving DecidableEq, Repr

/-- The ranges the spec admits: LOGICAL_ADDR_MIN in 0x01..0x20 (R5), 0x00 in STATUS_VALID (R7),
CAP at most 2^32-1 (R9). -/
def Params.wf (p : Params) : Bool :=
  decide (0x01#8 ≤ p.logicalAddrMin) && decide (p.logicalAddrMin ≤ 0x20#8) &&
    p.statusValid.contains 0x00#8 && decide (p.cap ≤ 2 ^ 32 - 1)

/-- The parameters of this machine.
LOGICAL_ADDR_MIN = 0x20: the value the spec fixes (R5, D6; log entry 3).
STATUS_VALID = 0x00..0x0C: the spec's default (R7, D7), a DESIGN CHOICE here since D7 is OPEN (log entry 2).
CAP = 2^32-1: a DESIGN CHOICE that R9 names as admissible (log entry 1). -/
def Config.params : Params where
  logicalAddrMin := 0x20
  statusValid := [0x00, 0x01, 0x02, 0x03, 0x04, 0x05, 0x06, 0x07, 0x08, 0x09, 0x0A, 0x0B, 0x0C]
  cap := 2 ^ 32 - 1

end Sys2Proof
end

