-- ==== Sys2Proof/Syntax.lean ====
section
/-! DEFINITION. The syntax of host command words: one constructor per row of `spec/opcode_table.json`
(`spec/30_encoding.md` R84 to R86), and the fields a field id names (R88). -/

namespace Sys2Proof

/-- The operations of R86. Each carries its ARG byte, because `OPC` alone selects the operation (R89) and each
operation's own rule says what it does with ARG: a format-N operation raises IllegalOperation unless ARG is 0x00,
REPLY takes it as the status code, RDF and WRF as the field id (R85, R87; log entry 10). -/
inductive Instr where
  /-- `CRC8` (R104), format N. -/
  | crc8 (arg : Byte)
  /-- `DECODE` (R124), format N. -/
  | decode (arg : Byte)
  /-- `ENCODE` (R151), format N. -/
  | encode (arg : Byte)
  /-- `STAMP` (R155), format N. -/
  | stamp (arg : Byte)
  /-- `CHECK` (R156), format N. -/
  | check (arg : Byte)
  /-- `ADDRESP` (R180), format N. -/
  | addresp (arg : Byte)
  /-- `REPLY #s` (R182), format S: ARG is the status code. -/
  | reply (status : Byte)
  /-- `NEW` (R210), format N. -/
  | new (arg : Byte)
  /-- `RDF fid` (R211), format F. -/
  | rdf (fid : Byte)
  /-- `WRF fid` (R214), format F. -/
  | wrf (fid : Byte)
deriving DecidableEq, Repr

/-- The scalar fields of PKT that the host may read and write (R88, kind "scalar", access RW). -/
inductive ScalarField where
  | destLa | packetType | command | srcAddrLen | destKey | srcLa
  | tid | extAddr | memAddr | dataLen | headerCrc | dataCrc
deriving DecidableEq, Repr

/-- The sequence fields of PKT that the host may read and write (R88, kind "sequence", access RW). -/
inductive SeqField where
  | destPath | srcPath | data
deriving DecidableEq, Repr

/-- What a field id names (R88): a scalar or a sequence of PKT, or one of the three read-only fields. -/
inductive Field where
  | scalar (f : ScalarField)
  | seq (f : SeqField)
  /-- fid 15: the constant 0x01 (R24, R213). -/
  | protocolId
  /-- fid 16: `RB.resp_data` (R27, R213). -/
  | respData
  /-- fid 17: the packed instruction byte (R213). -/
  | instruction
deriving DecidableEq, Repr

end Sys2Proof
end

