-- ==== Sys2Proof/Machine/State.lean ====
section
/-! DEFINITION. The complete state of one block instance (`spec/10_state.md` R41), as plain data, with its reset
value (`spec/70_reset_and_hazards.md` R270), the error kinds an operation records (`spec/60_exceptions.md` R240),
and the reasons a step can stop. -/

namespace Sys2Proof.Machine

/-- The packet register set PKT (R20). There is no protocol id field (R24). The §3 invariants relate
`srcAddrLen` to `srcPathAddr` and `dataLen` to `data`, and the storage does not keep them (R25). -/
structure Packet where
  destPathAddr : Bytes
  destLogicalAddr : Byte
  packetType : BitVec 2
  command : BitVec 4
  srcAddrLen : BitVec 2
  destKey : Byte
  srcPathAddr : Bytes
  srcLogicalAddr : Byte
  transactionId : BitVec 16
  extendedAddr : Byte
  memAddr : BitVec 32
  dataLen : BitVec 24
  headerCrc : Byte
  data : Bytes
  dataCrc : Byte
deriving DecidableEq, Repr

/-- `EMPTY_PKT` (R26): every field at its reset value of R20. -/
def Packet.empty : Packet where
  destPathAddr := []
  destLogicalAddr := 0x00
  packetType := 0b00
  command := 0b0000
  srcAddrLen := 0b00
  destKey := 0x00
  srcPathAddr := []
  srcLogicalAddr := 0x00
  transactionId := 0x0000
  extendedAddr := 0x00
  memAddr := 0x00000000
  dataLen := 0x000000
  headerCrc := 0x00
  data := []
  dataCrc := 0x00

/-- The lifecycle register LC (R30). Its numbers are labels that nothing reads, so LC is a set of names. -/
inductive Lifecycle where
  | built
  | decoded
  | respPending
  | replied
deriving DecidableEq, Repr

/-- The error kinds of R240. MalformedPacket names the field that could not be read (R123). -/
inductive ErrKind where
  | malformedPacket (f : Field)
  | invalidPacketState
  | invalidStatus
  | illegalOperation
deriving DecidableEq, Repr

/-- What the host, the single agent outside the block, can do to it (R32, R91, R270). -/
inductive HostAction where
  /-- Write a command word to CMD, which issues an operation (R32, R84). -/
  | cmd (w : Half)
  /-- `.ibuf b0 b1 …`: set IBUF to the whole sequence (R91). -/
  | ibuf (b : Bytes)
  /-- `.din v`: set DIN (R91). -/
  | din (v : Word)
  /-- Reset the block (R270; as a host action: log entry 7). -/
  | reset
deriving DecidableEq, Repr

/-- The state tuple of R41, and one field of the model's own: `pending`, the host actions still to come, oldest
first (log entry 4). -/
structure State where
  /-- PKT (R20). -/
  pkt : Packet
  /-- `RB.resp_data` (R27), storage distinct from `PKT.data` (R28). -/
  respData : Bytes
  /-- LC (R30). -/
  lc : Lifecycle
  /-- IBUF (R32, R51). -/
  ibuf : Bytes
  /-- OBUF (R32, R52). -/
  obuf : Bytes
  /-- DIN (R37). -/
  din : Word
  /-- DOUT (R36). -/
  dout : Word
  /-- RESULT (R35). -/
  result : Word
  /-- ERR (R33). -/
  err : Byte
  /-- ERR_FIELD (R34). -/
  errField : Byte
  /-- The host actions still to come (log entry 4). -/
  pending : List HostAction
deriving DecidableEq, Repr

/-- The state after reset (R270). Every value but that of `pending` is the spec's: none is left unspecified. -/
def State.reset : State where
  pkt := Packet.empty
  respData := []
  lc := .built
  ibuf := []
  obuf := []
  din := 0x00000000
  dout := 0x00000000
  result := 0x00000000
  err := 0x00
  errField := 0xFF
  pending := []

/-- Reasons the machine stops with a fault. There are none: each of the block's errors is recorded in ERR and the
machine goes on (R245, R247). -/
inductive Fault where
deriving DecidableEq, Repr

/-- Reasons a step has no meaning. -/
inductive Refusal where
  /-- An instruction without a meaning yet, raised by an arm of `exec`. No arm raises it. Safe. -/
  | notModelled (mnemonic : String)
  /-- R9, R59: the operation would read an IBUF longer than CAP, or store or write a sequence longer than CAP;
  it "has no step in the model: it is refused". Raised by CRC8, DECODE, ENCODE, ADDRESP, REPLY, RDF and WRF of a
  sequence field, and by a host write of IBUF beyond its capacity (log entry 6). Safe. -/
  | capExceeded
deriving DecidableEq, Repr

/-- The host-readable registers of R32. LC is not among them (R30). -/
inductive HostReg where
  | ibuf | obuf | din | dout | result | err | errField
deriving DecidableEq, Repr

/-- What a read of a field or of a host register gives: a 32-bit scalar or a byte sequence (R55, R211). -/
inductive Value where
  | scalar (v : Word)
  | seq (b : Bytes)
deriving DecidableEq, Repr

end Sys2Proof.Machine
end

