-- ==== Sys2Proof/Machine/Wire.lean ====
section
/-! DEFINITION. Byte order, the instruction byte and the packet serialization: the wire-level functions of
`spec/00_scope.md` R13 and `spec/30_encoding.md` R70 to R76. -/

namespace Sys2Proof.Machine

/-- `PROTOCOL_ID` (R6). -/
def protocolIdConst : Byte := 0x01

/-- `PT_COMMAND` (R73). -/
def ptCommand : BitVec 2 := 0b01

/-- `PT_REPLY` (R73). -/
def ptReply : BitVec 2 := 0b00

/-- `ERR_NO_ERROR` (R8): the one status code that is no failure (R184). -/
def errNoError : Byte := 0x00

/-- 2^24 - 1: the largest data length a 24-bit length field holds (R88, R180, R214). -/
def maxDataLen : Nat := 2 ^ 24 - 1

/-- `be_N(v)` (R13): N bytes, the most significant first. -/
def be (n : Nat) {w : Nat} (v : BitVec w) : Bytes :=
  (List.range n).map fun k => v.extractLsb' (8 * (n - 1 - k)) 8

/-- `from_be(s)` (R13): the unsigned value of a big-endian byte sequence. -/
def fromBe (s : Bytes) : Nat :=
  s.foldl (fun acc b => acc * 256 + b.toNat) 0

/-- `pack` (R72): packet_type in bits 7-6, command in bits 5-2, src_addr_len in bits 1-0. -/
def pack (pt : BitVec 2) (cmd : BitVec 4) (sal : BitVec 2) : Byte :=
  (pt.setWidth 8 <<< 6) ||| (cmd.setWidth 8 <<< 2) ||| sal.setWidth 8

/-- `unpack` (R72), first component: `b[7:6]`. -/
def packetTypeBits (b : Byte) : BitVec 2 := b.extractLsb' 6 2

/-- `unpack` (R72), second component: `b[5:2]`. -/
def commandBits (b : Byte) : BitVec 4 := b.extractLsb' 2 4

/-- `unpack` (R72), third component: `b[1:0]`. -/
def srcAddrLenBits (b : Byte) : BitVec 2 := b.extractLsb' 0 2

/-- `CMD_WRITE`, bit 3 of the command field (R74): 1 means write. No other command bit is read (R79, R188). -/
def isWrite (cmd : BitVec 4) : Bool := cmd.getLsbD 3

/-- `inv(P)` (R25): each length field agrees with its sequence. -/
def inv (P : Packet) : Bool :=
  decide (P.srcAddrLen.toNat = P.srcPathAddr.length) && decide (P.dataLen.toNat = P.data.length)

/-- `hdr(P)` (R75): the bytes from dest_logical_addr through data_len, which header_crc covers. -/
def hdr (P : Packet) : Bytes :=
  [P.destLogicalAddr, protocolIdConst, pack P.packetType P.command P.srcAddrLen, P.destKey]
    ++ P.srcPathAddr
    ++ [P.srcLogicalAddr] ++ be 2 P.transactionId ++ [P.extendedAddr]
    ++ be 4 P.memAddr ++ be 3 P.dataLen

/-- `enc(P)` (R76): the serialization of a packet, with its CRC fields as they stand. -/
def enc (P : Packet) : Bytes :=
  P.destPathAddr ++ hdr P ++ [P.headerCrc] ++ P.data ++ [P.dataCrc]

end Sys2Proof.Machine
end

