-- ==== Sys2Proof/Machine/Operands.lean ====
section
/-! DEFINITION. The operand forms of a command word: the field ids of `spec/30_encoding.md` R88 with their widths
and capacities, and the one read and the one write of each field (`spec/44_field_access.md` R211 to R216). -/

namespace Sys2Proof.Machine

/-- The field a field id names (R88). Ids 18..255 name none. -/
def fieldOfId (fid : Byte) : Option Field :=
  match fid.toNat with
  | 0 => some (.seq .destPath)
  | 1 => some (.scalar .destLa)
  | 2 => some (.scalar .packetType)
  | 3 => some (.scalar .command)
  | 4 => some (.scalar .srcAddrLen)
  | 5 => some (.scalar .destKey)
  | 6 => some (.seq .srcPath)
  | 7 => some (.scalar .srcLa)
  | 8 => some (.scalar .tid)
  | 9 => some (.scalar .extAddr)
  | 10 => some (.scalar .memAddr)
  | 11 => some (.scalar .dataLen)
  | 12 => some (.scalar .headerCrc)
  | 13 => some (.seq .data)
  | 14 => some (.scalar .dataCrc)
  | 15 => some .protocolId
  | 16 => some .respData
  | 17 => some .instruction
  | _ => none

/-- The field id of a scalar field (R88). -/
def scalarId : ScalarField → Byte
  | .destLa => 1
  | .packetType => 2
  | .command => 3
  | .srcAddrLen => 4
  | .destKey => 5
  | .srcLa => 7
  | .tid => 8
  | .extAddr => 9
  | .memAddr => 10
  | .dataLen => 11
  | .headerCrc => 12
  | .dataCrc => 14

/-- The field id of a sequence field (R88). -/
def seqId : SeqField → Byte
  | .destPath => 0
  | .srcPath => 6
  | .data => 13

/-- The field id of a field (R88), also the ERR_FIELD value of MalformedPacket (R34, R123). -/
def fieldId : Field → Byte
  | .scalar f => scalarId f
  | .seq f => seqId f
  | .protocolId => 15
  | .respData => 16
  | .instruction => 17

/-- The width in bits of a scalar field (R10, R88). -/
def scalarWidth : ScalarField → Nat
  | .destLa => 8
  | .packetType => 2
  | .command => 4
  | .srcAddrLen => 2
  | .destKey => 8
  | .srcLa => 8
  | .tid => 16
  | .extAddr => 8
  | .memAddr => 32
  | .dataLen => 24
  | .headerCrc => 8
  | .dataCrc => 8

/-- The value of a scalar field, zero-extended to 32 bits (R55, R211). -/
def getScalar (P : Packet) : ScalarField → Word
  | .destLa => P.destLogicalAddr.setWidth 32
  | .packetType => P.packetType.setWidth 32
  | .command => P.command.setWidth 32
  | .srcAddrLen => P.srcAddrLen.setWidth 32
  | .destKey => P.destKey.setWidth 32
  | .srcLa => P.srcLogicalAddr.setWidth 32
  | .tid => P.transactionId.setWidth 32
  | .extAddr => P.extendedAddr.setWidth 32
  | .memAddr => P.memAddr
  | .dataLen => P.dataLen.setWidth 32
  | .headerCrc => P.headerCrc.setWidth 32
  | .dataCrc => P.dataCrc.setWidth 32

/-- `PKT.<field> <- v[w-1:0]` (R214), for a scalar field. Length fields and their sequences are written
independently, and no CRC is recomputed (R218). -/
def setScalar (P : Packet) (f : ScalarField) (v : Word) : Packet :=
  match f with
  | .destLa => { P with destLogicalAddr := v.setWidth 8 }
  | .packetType => { P with packetType := v.setWidth 2 }
  | .command => { P with command := v.setWidth 4 }
  | .srcAddrLen => { P with srcAddrLen := v.setWidth 2 }
  | .destKey => { P with destKey := v.setWidth 8 }
  | .srcLa => { P with srcLogicalAddr := v.setWidth 8 }
  | .tid => { P with transactionId := v.setWidth 16 }
  | .extAddr => { P with extendedAddr := v.setWidth 8 }
  | .memAddr => { P with memAddr := v }
  | .dataLen => { P with dataLen := v.setWidth 24 }
  | .headerCrc => { P with headerCrc := v.setWidth 8 }
  | .dataCrc => { P with dataCrc := v.setWidth 8 }

/-- R216: the whole 32-bit DIN must be below 2^width. -/
def scalarFits (f : ScalarField) (v : Word) : Bool :=
  decide (v.toNat < 2 ^ scalarWidth f)

/-- The bytes of a sequence field (R211). -/
def getSeq (P : Packet) : SeqField → Bytes
  | .destPath => P.destPathAddr
  | .srcPath => P.srcPathAddr
  | .data => P.data

/-- `PKT.<field> <- IBUF` (R214), for a sequence field: byte for byte, no value checked (R215). -/
def setSeq (P : Packet) (f : SeqField) (b : Bytes) : Packet :=
  match f with
  | .destPath => { P with destPathAddr := b }
  | .srcPath => { P with srcPathAddr := b }
  | .data => { P with data := b }

/-- R214: `src_path_addr` holds at most 3 bytes, `data` at most 2^24 - 1; `dest_path_addr` is bounded by CAP only. -/
def seqFits (f : SeqField) (b : Bytes) : Bool :=
  match f with
  | .destPath => true
  | .srcPath => decide (b.length ≤ 3)
  | .data => decide (b.length ≤ maxDataLen)

/-- What RDF reads from each field (R211, R213). -/
def readField (s : State) : Field → Value
  | .scalar f => .scalar (getScalar s.pkt f)
  | .seq f => .seq (getSeq s.pkt f)
  | .protocolId => .scalar (protocolIdConst.setWidth 32)
  | .respData => .seq s.respData
  | .instruction => .scalar ((pack s.pkt.packetType s.pkt.command s.pkt.srcAddrLen).setWidth 32)

end Sys2Proof.Machine
end

