-- ==== Sys2Proof/Machine/Flags.lean ====
section
/-! DEFINITION. The block's only flags: the codes of ERR and ERR_FIELD (`spec/10_state.md` R33, R34;
`spec/60_exceptions.md` R240, R246) and the two CRC-match bits of CHECK (`spec/42_encode.md` R156). -/

namespace Sys2Proof.Machine

/-- `ERR_OK` (R33). -/
def errOk : Byte := 0

/-- The ERR_FIELD value "no field" (R34). -/
def noField : Byte := 0xFF

/-- The ERR codes of R33 and R240. -/
def errCode : ErrKind → Byte
  | .malformedPacket _ => 1
  | .invalidPacketState => 2
  | .invalidStatus => 3
  | .illegalOperation => 4

/-- R246: ERR_FIELD is the id of the field that could not be read for MalformedPacket, and 0xFF otherwise. -/
def errInfo : ErrKind → Byte
  | .malformedPacket f => fieldId f
  | .invalidPacketState => noField
  | .invalidStatus => noField
  | .illegalOperation => noField

/-- CHECK's RESULT (R156): `hdr_ok | (data_ok << 1)`, the other bits zero. -/
def checkFlags (hdrOk dataOk : Bool) : Word :=
  (if hdrOk then 1#32 else 0#32) ||| ((if dataOk then 1#32 else 0#32) <<< 1)

end Sys2Proof.Machine
end

