-- ==== Sys2Proof/Machine/Ops.lean ====
section
/-! DEFINITION. The shared operations of the block: field updates of State, completing an operation and raising an
error, reading IBUF and writing OBUF within CAP, and what the host reads (`spec/00_scope.md` R15, R16;
`spec/20_memory.md` R50 to R59; `spec/60_exceptions.md` R245 to R247). -/

namespace Sys2Proof.Machine

/-- What one operation answers. -/
abbrev Answer := Host.Outcome State Fault Refusal

def State.setPkt (s : State) (P : Packet) : State := { s with pkt := P }
def State.setRespData (s : State) (b : Bytes) : State := { s with respData := b }
def State.setLc (s : State) (l : Lifecycle) : State := { s with lc := l }
def State.setIbuf (s : State) (b : Bytes) : State := { s with ibuf := b }
def State.setObuf (s : State) (b : Bytes) : State := { s with obuf := b }
def State.setDin (s : State) (v : Word) : State := { s with din := v }
def State.setDout (s : State) (v : Word) : State := { s with dout := v }
def State.setResult (s : State) (v : Word) : State := { s with result := v }
def State.setErr (s : State) (code info : Byte) : State := { s with err := code, errField := info }
def State.setPending (s : State) (l : List HostAction) : State := { s with pending := l }

/-- An operation ends without error: its writes `s` take effect together, with `ERR <- ERR_OK` and
`ERR_FIELD <- 0xFF` (R16, R33, R34). -/
def complete (s : State) : Answer := .next (s.setErr errOk noField)

/-- TAKING AN ERROR, from the state the operation started in (R15, R245): only ERR and ERR_FIELD are written.
No context is saved, no handler runs and there is no return from an error: the next command word runs normally
whatever ERR holds (R247). -/
def raise (e : ErrKind) (s : State) : Answer := .next (s.setErr (errCode e) (errInfo e))

/-- Reading the whole of IBUF (R51). An IBUF longer than CAP gives the operation no step (R59). -/
def withIbuf (p : Params) (s : State) (k : Bytes → Answer) : Answer :=
  if s.ibuf.length ≤ p.cap then k s.ibuf else .refused .capExceeded

/-- `MemWrite(OBUF, out)` as the last write of an operation whose other writes are in `s`: the whole of OBUF is
replaced (R15, R52). An output longer than CAP gives the operation no step (R59). -/
def writeObuf (p : Params) (out : Bytes) (s : State) : Answer :=
  if out.length ≤ p.cap then complete (s.setObuf out) else .refused .capExceeded

/-- The first check of a format-N operation: `if ARG != 0x00 then raise IllegalOperation` (R85, R87, R248). -/
def withNoArg (arg : Byte) (s : State) (k : Answer) : Answer :=
  if arg = 0#8 then k else raise .illegalOperation s

/-- `MemRead(B, a, n)` (R15): the slice `B[a .. a+n)` of a buffer, where it exists. -/
def memRead (b : Bytes) (a n : Nat) : Option Bytes :=
  if a + n ≤ b.length then some ((b.drop a).take n) else none

/-- The canonical form of a buffer (R50, R59): a whole sequence no longer than CAP. Equal buffers are equal lists,
since a sequence has no unlisted index (log entry 8). -/
def Memory.wf (p : Params) (b : Bytes) : Bool := decide (b.length ≤ p.cap)

/-- `ILEN = len(IBUF)` (R32). -/
def State.ilen (s : State) : Nat := s.ibuf.length

/-- `OLEN = len(OBUF)` (R32). -/
def State.olen (s : State) : Nat := s.obuf.length

/-- A host read of an interface register (R32). It has no side effect (R57), so it is no step. -/
def hostRead (s : State) : HostReg → Value
  | .ibuf => .seq s.ibuf
  | .obuf => .seq s.obuf
  | .din => .scalar s.din
  | .dout => .scalar s.dout
  | .result => .scalar s.result
  | .err => .scalar (s.err.setWidth 32)
  | .errField => .scalar (s.errField.setWidth 32)

end Sys2Proof.Machine
end

