-- ==== Sys2Proof/Machine/FieldAccess.lean ====
section
/-! DEFINITION. Packet construction and field access: NEW, RDF and WRF (`spec/44_field_access.md` R210 to R219). -/

namespace Sys2Proof.Machine

/-- `NEW` (R210): load the empty packet, empty the reply builder, LC <- BUILT. -/
def execNew (arg : Byte) (s : State) : Answer :=
  withNoArg arg s <| complete (((s.setPkt Packet.empty).setRespData []).setLc .built)

/-- RDF for a parameter set `p` (R211): a scalar goes to DOUT; a sequence replaces OBUF and its length goes to DOUT
(R212). -/
def rdfOp (p : Params) (fid : Byte) (s : State) : Answer :=
  match fieldOfId fid with
  | none => raise .illegalOperation s
  | some f =>
    match readField s f with
    | .scalar v => complete (s.setDout v)
    | .seq b => writeObuf p b (s.setDout (BitVec.ofNat 32 b.length))

/-- `RDF fid` (R211). -/
def execRdf (fid : Byte) (s : State) : Answer := rdfOp Config.params fid s

/-- WRF of a scalar field, its id and LC already checked (R214, R216). -/
def wrfScalar (f : ScalarField) (s : State) : Answer :=
  if scalarFits f s.din then complete (s.setPkt (setScalar s.pkt f s.din))
  else raise .illegalOperation s

/-- WRF of a sequence field, its id and LC already checked (R214, R215). -/
def wrfSeq (p : Params) (f : SeqField) (s : State) : Answer :=
  withIbuf p s fun buf =>
    if seqFits f buf then complete (s.setPkt (setSeq s.pkt f buf))
    else raise .illegalOperation s

/-- WRF for a parameter set `p` (R214): the field id is checked first (R217), then LC (R219), then the value
(R248). -/
def wrfOp (p : Params) (fid : Byte) (s : State) : Answer :=
  match fieldOfId fid with
  | none => raise .illegalOperation s
  | some .protocolId => raise .illegalOperation s
  | some .respData => raise .illegalOperation s
  | some .instruction => raise .illegalOperation s
  | some (.scalar f) => if s.lc ≠ .built then raise .invalidPacketState s else wrfScalar f s
  | some (.seq f) => if s.lc ≠ .built then raise .invalidPacketState s else wrfSeq p f s

/-- `WRF fid` (R214). -/
def execWrf (fid : Byte) (s : State) : Answer := wrfOp Config.params fid s

end Sys2Proof.Machine
end

