-- ==== Sys2Proof/Machine/PacketDecode.lean ====
section
/-! DEFINITION. The packet decoder and its operation DECODE (`spec/41_decode.md` R120 to R137). -/

namespace Sys2Proof.Machine

/-- One byte from the cursor, or MalformedPacket naming `f` (R123). -/
def needByte (f : Field) (buf : Bytes) : Except ErrKind (Byte × Bytes) :=
  match buf with
  | [] => .error (.malformedPacket f)
  | b :: rest => .ok (b, rest)

/-- `n` bytes from the cursor, or MalformedPacket naming `f` (R123, R124 `need`). -/
def need (n : Nat) (f : Field) (buf : Bytes) : Except ErrKind (Bytes × Bytes) :=
  if buf.length < n then .error (.malformedPacket f) else .ok (buf.take n, buf.drop n)

/-- The path scan of step 1 (R122): the leading bytes below LOGICAL_ADDR_MIN. -/
def scanPath (lam : Byte) (buf : Bytes) : Bytes := buf.takeWhile fun b => decide (b < lam)

/-- What the path scan leaves for step 2 (R122). -/
def afterPath (lam : Byte) (buf : Bytes) : Bytes := buf.dropWhile fun b => decide (b < lam)

/-- The steps of R124 in strict byte order: the packet and the bytes after `data_crc`. The protocol id byte is read
and not kept (R125), the CRC bytes are stored as received (R126), and the layout does not depend on packet_type or
command (R121, R130). -/
def parseCommand (lam : Byte) (buf : Bytes) : Except ErrKind (Packet × Bytes) := do
  let path := scanPath lam buf
  let (dla, r) ← needByte (.scalar .destLa) (afterPath lam buf)
  let (_, r) ← needByte .protocolId r
  let (ib, r) ← needByte .instruction r
  let (key, r) ← needByte (.scalar .destKey) r
  let (sp, r) ← need (srcAddrLenBits ib).toNat (.seq .srcPath) r
  let (sla, r) ← needByte (.scalar .srcLa) r
  let (tid, r) ← need 2 (.scalar .tid) r
  let (ext, r) ← needByte (.scalar .extAddr) r
  let (mem, r) ← need 4 (.scalar .memAddr) r
  let (dl, r) ← need 3 (.scalar .dataLen) r
  let (hc, r) ← needByte (.scalar .headerCrc) r
  let (d, r) ← need (fromBe dl) (.seq .data) r
  let (dc, r) ← needByte (.scalar .dataCrc) r
  .ok ({ destPathAddr := path, destLogicalAddr := dla, packetType := packetTypeBits ib,
         command := commandBits ib, srcAddrLen := srcAddrLenBits ib, destKey := key,
         srcPathAddr := sp, srcLogicalAddr := sla, transactionId := BitVec.ofNat 16 (fromBe tid),
         extendedAddr := ext, memAddr := BitVec.ofNat 32 (fromBe mem),
         dataLen := BitVec.ofNat 24 (fromBe dl), headerCrc := hc, data := d, dataCrc := dc }, r)

/-- The writes of a successful DECODE (R124): PKT, an emptied reply builder (R128), LC and the count of bytes
consumed (R133). Bytes after `data_crc` are left (R127). -/
def decodeCommit (s : State) (P : Packet) (consumed : Nat) : State :=
  (((s.setPkt P).setRespData []).setLc .decoded).setResult (BitVec.ofNat 32 consumed)

/-- DECODE for a parameter set `p` (R124). All or nothing (R129). -/
def decodeOp (p : Params) (arg : Byte) (s : State) : Answer :=
  withNoArg arg s <| withIbuf p s fun buf =>
    match parseCommand p.logicalAddrMin buf with
    | .error e => raise e s
    | .ok (P, rest) => complete (decodeCommit s P (buf.length - rest.length))

/-- `DECODE` (R124): parse IBUF into PKT. -/
def execDecode (arg : Byte) (s : State) : Answer := decodeOp Config.params arg s

end Sys2Proof.Machine
end

