-- ==== Sys2Proof/Machine/PacketEncode.lean ====
section
/-! DEFINITION. The packet encoder's operations ENCODE, STAMP and CHECK (`spec/42_encode.md` R150 to R158). -/

namespace Sys2Proof.Machine

/-- ENCODE for a parameter set `p` (R151): the length invariants are the only check (R152), and the CRC fields go
out as stored (R150). -/
def encodeOp (p : Params) (arg : Byte) (s : State) : Answer :=
  withNoArg arg s <|
    if inv s.pkt then writeObuf p (enc s.pkt) s else raise .invalidPacketState s

/-- `ENCODE` (R151): serialize PKT into OBUF. -/
def execEncode (arg : Byte) (s : State) : Answer := encodeOp Config.params arg s

/-- PKT with both CRC fields computed (R155). -/
def stamped (P : Packet) : Packet :=
  { P with headerCrc := crc8 (hdr P), dataCrc := crc8 P.data }

/-- `STAMP` (R155): compute both CRCs of a packet under construction and store them. It reads and writes no
buffer, so CAP does not bear on it. -/
def execStamp (arg : Byte) (s : State) : Answer :=
  withNoArg arg s <|
    if s.lc ≠ .built then raise .invalidPacketState s
    else if inv s.pkt then complete (s.setPkt (stamped s.pkt))
    else raise .invalidPacketState s

/-- `hdr_ok` (R156). -/
def headerCrcOk (P : Packet) : Bool := decide (crc8 (hdr P) = P.headerCrc)

/-- `data_ok` (R156). -/
def dataCrcOk (P : Packet) : Bool := decide (crc8 P.data = P.dataCrc)

/-- `CHECK` (R156): compare both stored CRCs with recomputed ones. A mismatch is a 0 bit, not an error (R249). -/
def execCheck (arg : Byte) (s : State) : Answer :=
  withNoArg arg s <|
    if inv s.pkt then complete (s.setResult (checkFlags (headerCrcOk s.pkt) (dataCrcOk s.pkt)))
    else raise .invalidPacketState s

end Sys2Proof.Machine
end

