-- ==== Sys2Proof/Machine/Reply.lean ====
section
/-! DEFINITION. Reply construction: the reply layouts (`spec/30_encoding.md` R77 to R83) and the operations ADDRESP
and REPLY (`spec/43_reply.md` R180 to R190). -/

namespace Sys2Proof.Machine

/-- The seven header bytes both reply layouts share (R77, R78): the identifiers swap roles (R81), the instruction
byte is that of R80, and the status has a byte of its own (R83). -/
def replyHead (C : Packet) (status : Byte) : Bytes :=
  [C.srcLogicalAddr, protocolIdConst, pack ptReply C.command 0b00#2, status, C.destLogicalAddr]
    ++ be 2 C.transactionId

/-- `wreply(C, s)` (R77): no data length, no data, no data CRC. -/
def wreply (C : Packet) (status : Byte) : Bytes :=
  let h := replyHead C status
  C.srcPathAddr ++ h ++ [crc8 h]

/-- `rreply(C, s, d)` (R78; the spec takes this layout from general knowledge, log entry 13). -/
def rreply (C : Packet) (status : Byte) (d : Bytes) : Bytes :=
  let h := replyHead C status ++ [0x00#8] ++ be 3 (BitVec.ofNat 24 d.length)
  C.srcPathAddr ++ h ++ [crc8 h] ++ d ++ [crc8 d]

/-- The reply bytes (R79, R182, R185): a write reply carries no data; a read reply carries `RB.resp_data` when the
status is ERR_NO_ERROR and nothing on a failure (R184). -/
def replyBytes (C : Packet) (respData : Bytes) (status : Byte) : Bytes :=
  if isWrite C.command then wreply C status
  else rreply C status (if status = errNoError then respData else [])

/-- ADDRESP for a parameter set `p` (R180). -/
def addrespOp (p : Params) (arg : Byte) (s : State) : Answer :=
  withNoArg arg s <|
    if s.lc ≠ .decoded ∧ s.lc ≠ .respPending then raise .invalidPacketState s
    else if s.pkt.packetType ≠ ptCommand then raise .invalidPacketState s
    else withIbuf p s fun buf =>
      if buf.length > maxDataLen then raise .invalidPacketState s
      else complete ((s.setRespData buf).setLc .respPending)

/-- `ADDRESP` (R180): attach IBUF as the response data of a later reply. -/
def execAddresp (arg : Byte) (s : State) : Answer := addrespOp Config.params arg s

/-- REPLY for a parameter set `p` (R182). The state checks come before the status check (R248). -/
def replyOp (p : Params) (status : Byte) (s : State) : Answer :=
  if s.lc = .built then raise .invalidPacketState s
  else if s.pkt.packetType ≠ ptCommand then raise .invalidPacketState s
  else if status ∈ p.statusValid then
    writeObuf p (replyBytes s.pkt s.respData status) (s.setLc .replied)
  else raise .invalidStatus s

/-- `REPLY #s` (R182): build the reply to the command in PKT and serialize it into OBUF. -/
def execReply (status : Byte) (s : State) : Answer := replyOp Config.params status s

end Sys2Proof.Machine
end

