-- ==== Sys2Proof/Machine/Dispatch.lean ====
section
/-! DEFINITION. One arm per constructor of `Instr`: the operation of `spec/30_encoding.md` R86 that a command word
selects. -/

namespace Sys2Proof.Machine

def exec (i : Instr) (s : State) : Host.Outcome State Fault Refusal :=
  match i with
  | .crc8 arg => Sys2Proof.Machine.execCrc8 arg s
  | .decode arg => Sys2Proof.Machine.execDecode arg s
  | .encode arg => Sys2Proof.Machine.execEncode arg s
  | .stamp arg => Sys2Proof.Machine.execStamp arg s
  | .check arg => Sys2Proof.Machine.execCheck arg s
  | .addresp arg => Sys2Proof.Machine.execAddresp arg s
  | .reply status => Sys2Proof.Machine.execReply status s
  | .new arg => Sys2Proof.Machine.execNew arg s
  | .rdf fid => Sys2Proof.Machine.execRdf fid s
  | .wrf fid => Sys2Proof.Machine.execWrf fid s

end Sys2Proof.Machine
end

