-- ==== Sys2Proof/Decode.lean ====
section
/-! DEFINITION. The command-word decoder, total on every 16-bit word and rejecting by name, and the encoder,
both written from `spec/30_encoding.md` R84 to R87. (The RMAP packet decoder is an instruction's meaning and
stands in `Sys2Proof/Machine/PacketDecode.lean`.) -/

namespace Sys2Proof

/-- Why a command word selects no operation. -/
inductive DecodeError where
  /-- OPC outside 0x01..0x0A (R87). The block raises IllegalOperation for it (R244). -/
  | illegalOpcode (opc : Byte)
deriving DecidableEq, Repr

/-- `OPC = CMD[15:8]` (R84). -/
def opcOf (w : Half) : Byte := w.extractLsb' 8 8

/-- `ARG = CMD[7:0]` (R84). -/
def argOf (w : Half) : Byte := w.extractLsb' 0 8

/-- R86, R89: `OPC` alone selects the operation, and ARG is its one operand. Every OPC outside 0x01..0x0A is
illegal (R87). -/
def decode (w : Half) : Except DecodeError Instr :=
  match (opcOf w).toNat with
  | 0x01 => .ok (.crc8 (argOf w))
  | 0x02 => .ok (.decode (argOf w))
  | 0x03 => .ok (.encode (argOf w))
  | 0x04 => .ok (.stamp (argOf w))
  | 0x05 => .ok (.check (argOf w))
  | 0x06 => .ok (.addresp (argOf w))
  | 0x07 => .ok (.reply (argOf w))
  | 0x08 => .ok (.new (argOf w))
  | 0x09 => .ok (.rdf (argOf w))
  | 0x0A => .ok (.wrf (argOf w))
  | _ => .error (.illegalOpcode (opcOf w))

/-- The OPC column of R86. -/
def Instr.opcode : Instr → Byte
  | .crc8 _ => 0x01
  | .decode _ => 0x02
  | .encode _ => 0x03
  | .stamp _ => 0x04
  | .check _ => 0x05
  | .addresp _ => 0x06
  | .reply _ => 0x07
  | .new _ => 0x08
  | .rdf _ => 0x09
  | .wrf _ => 0x0A

/-- The ARG byte (R85). -/
def Instr.argument : Instr → Byte
  | .crc8 arg => arg
  | .decode arg => arg
  | .encode arg => arg
  | .stamp arg => arg
  | .check arg => arg
  | .addresp arg => arg
  | .reply status => status
  | .new arg => arg
  | .rdf fid => fid
  | .wrf fid => fid

/-- R90: the encoding is `OPC << 8 | ARG`. -/
def encode (i : Instr) : Half :=
  (i.opcode.setWidth 16 <<< 8) ||| i.argument.setWidth 16

/-- The instruction the decoder reads from an instruction of `nbits` bits whose bits are `w`, numbered as
`spec/opcode_table.json` numbers them. A command word is one 16-bit unit written to CMD (R84): it is stored
nowhere, so it has no byte order. -/
def decodeTableWord (nbits w : Nat) : Option Instr :=
  match decode (BitVec.ofNat 16 (w % 2 ^ nbits)) with
  | .ok i => some i
  | .error _ => none

end Sys2Proof
end

