-- ==== Sys2Proof/Machine/HostActions.lean ====
section
/-! DEFINITION. What one host action does to the block (`spec/30_encoding.md` R84, R87, R91; `spec/20_memory.md` R51,
R59; `spec/70_reset_and_hazards.md` R270). The operations come as an argument, so that the machine and its
parametric form share this text. -/

namespace Sys2Proof.Machine

/-- Issuing a command word (R84): the operation its OPC selects runs as one atomic step; a word whose OPC selects
none raises IllegalOperation (R87, R244). -/
def issue (run : Instr → State → Answer) (w : Half) (s : State) : Answer :=
  match decode w with
  | .ok i => run i s
  | .error _ => raise .illegalOperation s

/-- `.ibuf` (R91): the whole of IBUF is replaced. IBUF holds at most CAP bytes (R32, R59; log entry 6). -/
def hostIbuf (p : Params) (b : Bytes) (s : State) : Answer :=
  if b.length ≤ p.cap then .next (s.setIbuf b) else .refused .capExceeded

/-- `.din` (R91). -/
def hostDin (v : Word) (s : State) : Answer := .next (s.setDin v)

/-- Reset between two host actions (R270): every state element of the spec takes its reset value. The host's own
list is no state of the block and stays (log entry 7). -/
def hostReset (s : State) : Answer := .next (State.reset.setPending s.pending)

/-- The effect of one host action. -/
def hostAction (p : Params) (run : Instr → State → Answer) (a : HostAction) (s : State) : Answer :=
  match a with
  | .cmd w => issue run w s
  | .ibuf b => hostIbuf p b s
  | .din v => hostDin v s
  | .reset => hostReset s

/-- One step: the host's next action takes effect (R60). While the host does nothing the block keeps its state:
only a host access changes it (R57, R60; log entry 5). -/
def hostStep (p : Params) (run : Instr → State → Answer) (s : State) : Answer :=
  match s.pending with
  | [] => .next s
  | a :: rest => hostAction p run a (s.setPending rest)

/-- The command word given by its bits as the table numbers them, put first among the host's actions. -/
def fetchWord (s : State) (nbits w : Nat) : State :=
  s.setPending (.cmd (BitVec.ofNat 16 (w % 2 ^ nbits)) :: s.pending)

end Sys2Proof.Machine
end

