-- ==== Sys2Proof/Machine/Step.lean ====
section
/-! DEFINITION. One step of the block: the host's next action takes effect (`spec/20_memory.md` R60;
`spec/30_encoding.md` R84). -/

namespace Sys2Proof.Machine

/-- The machine's step, for the parameters of `Config.params`. -/
def step (s : State) : Host.Outcome State Fault Refusal := hostStep Config.params exec s

/-- `s` with the command word of bits `w` as the host's very next action (log entry 9). -/
def State.withFetchWord (s : State) (nbits w : Nat) : State := fetchWord s nbits w

end Sys2Proof.Machine
end

