-- ==== Sys2Proof/Machine/Assembler.lean ====
section
/-! DEFINITION. The host program text of `spec/30_encoding.md` R90 and R91: one line is one host action. Conventions
the rules leave open (spacing, digits' case, number range) are log entry 12. -/

namespace Sys2Proof.Machine

/-- A line as its space-separated tokens; `cur` holds the current token, reversed. -/
def tokensFrom (cur : List Char) : List Char → List (List Char)
  | [] => if cur = [] then [] else [cur.reverse]
  | c :: rest =>
    if c = ' ' then (if cur = [] then tokensFrom [] rest else cur.reverse :: tokensFrom [] rest)
    else tokensFrom (c :: cur) rest

/-- The value of a decimal or hexadecimal digit. -/
def digitValue (c : Char) : Option Nat :=
  let n := c.toNat
  if 48 ≤ n ∧ n ≤ 57 then some (n - 48)
  else if 65 ≤ n ∧ n ≤ 70 then some (n - 55)
  else if 97 ≤ n ∧ n ≤ 102 then some (n - 87)
  else none

/-- The digits of a number in a base, most significant first, `acc` read so far. -/
def digitsValue (base acc : Nat) : List Char → Option Nat
  | [] => some acc
  | c :: rest =>
    match digitValue c with
    | some d => if d < base then digitsValue base (acc * base + d) rest else none
    | none => none

/-- A number in decimal or `0x` hex (R90). -/
def numberValue (tok : List Char) : Option Nat :=
  match tok with
  | [] => none
  | [c] => digitsValue 10 0 [c]
  | c :: d :: rest =>
    if c = '0' ∧ d = 'x' then (if rest = [] then none else digitsValue 16 0 rest)
    else digitsValue 10 0 tok

/-- A number that fits 8 bits. -/
def byteValue (tok : List Char) : Option Byte :=
  match numberValue tok with
  | some n => if n < 256 then some (BitVec.ofNat 8 n) else none
  | none => none

/-- A byte of `.ibuf`: hexadecimal without a prefix (R12, R91). -/
def hexByte (tok : List Char) : Option Byte :=
  if tok = [] then none
  else match digitsValue 16 0 tok with
    | some n => if n < 256 then some (BitVec.ofNat 8 n) else none
    | none => none

/-- All bytes of `.ibuf`, in order. -/
def hexBytes : List (List Char) → Option Bytes
  | [] => some []
  | tok :: rest =>
    match hexByte tok, hexBytes rest with
    | some b, some bs => some (b :: bs)
    | _, _ => none

/-- The field names of R88. -/
def fieldName : Field → String
  | .seq .destPath => "DEST_PATH"
  | .scalar .destLa => "DEST_LA"
  | .scalar .packetType => "PACKET_TYPE"
  | .scalar .command => "COMMAND"
  | .scalar .srcAddrLen => "SRC_ADDR_LEN"
  | .scalar .destKey => "DEST_KEY"
  | .seq .srcPath => "SRC_PATH"
  | .scalar .srcLa => "SRC_LA"
  | .scalar .tid => "TID"
  | .scalar .extAddr => "EXT_ADDR"
  | .scalar .memAddr => "MEM_ADDR"
  | .scalar .dataLen => "DATA_LEN"
  | .scalar .headerCrc => "HEADER_CRC"
  | .seq .data => "DATA"
  | .scalar .dataCrc => "DATA_CRC"
  | .protocolId => "PROTOCOL_ID"
  | .respData => "RESP_DATA"
  | .instruction => "INSTRUCTION"

/-- The fields of R88 in field-id order. -/
def allFields : List Field :=
  (List.range 18).filterMap fun n => fieldOfId (BitVec.ofNat 8 n)

/-- A field operand: "a number or a field name from rule R88" (R90). -/
def fieldOperand (tok : List Char) : Option Byte :=
  match allFields.find? (fun f => (fieldName f).toList = tok) with
  | some f => some (fieldId f)
  | none => byteValue tok

/-- The status operand `#s` (R90). -/
def statusOperand (tok : List Char) : Option Byte :=
  match tok with
  | '#' :: num => byteValue num
  | _ => none

/-- A mnemonic that stands alone on its line: format N (R90). -/
def plainMnemonic (tok : List Char) : Option Instr :=
  if tok = "CRC8".toList then some (.crc8 0)
  else if tok = "DECODE".toList then some (.decode 0)
  else if tok = "ENCODE".toList then some (.encode 0)
  else if tok = "STAMP".toList then some (.stamp 0)
  else if tok = "CHECK".toList then some (.check 0)
  else if tok = "ADDRESP".toList then some (.addresp 0)
  else if tok = "NEW".toList then some (.new 0)
  else none

/-- A mnemonic with one operand: formats S and F (R90). -/
def operandMnemonic (tok arg : List Char) : Option Instr :=
  if tok = "REPLY".toList then (statusOperand arg).map .reply
  else if tok = "RDF".toList then (fieldOperand arg).map .rdf
  else if tok = "WRF".toList then (fieldOperand arg).map .wrf
  else none

/-- The host action a line's tokens stand for (R90, R91). -/
def assembleTokens (toks : List (List Char)) : Option HostAction :=
  match toks with
  | [] => none
  | t :: args =>
    if t = ".ibuf".toList then (hexBytes args).map .ibuf
    else match args with
      | [] => (plainMnemonic t).map fun i => .cmd (encode i)
      | [a] =>
        if t = ".din".toList then
          match numberValue a with
          | some v => if v < 2 ^ 32 then some (.din (BitVec.ofNat 32 v)) else none
          | none => none
        else (operandMnemonic t a).map fun i => .cmd (encode i)
      | _ :: _ :: _ => none

/-- One line of a host program (R90, R91). -/
def assembleLine (line : String) : Option HostAction := assembleTokens (tokensFrom [] line.toList)

end Sys2Proof.Machine
end

