-- ==== Sys2Proof/Machine/Parametric.lean ====
section
/-! DEFINITION. The same operations for ANY parameter set (`spec/00_scope.md` R5, R7, R9): the parametric operations
that the meanings of `exec` take at `Config.params`. A statement about `execFor p` for every admitted `p` covers
every block the spec allows, whatever its CAP and STATUS_VALID. -/

namespace Sys2Proof.Machine

/-- The operation a command word selects, for a parameter set `p`. -/
def execFor (p : Params) (i : Instr) (s : State) : Answer :=
  match i with
  | .crc8 arg => crc8Op p arg s
  | .decode arg => decodeOp p arg s
  | .encode arg => encodeOp p arg s
  | .stamp arg => execStamp arg s
  | .check arg => execCheck arg s
  | .addresp arg => addrespOp p arg s
  | .reply status => replyOp p status s
  | .new arg => execNew arg s
  | .rdf fid => rdfOp p fid s
  | .wrf fid => wrfOp p fid s

/-- One step, for a parameter set `p`. -/
def stepFor (p : Params) (s : State) : Answer := hostStep p (execFor p) s

end Sys2Proof.Machine
end

