-- ==== Sys2Proof/WellFormed.lean ====
section
/-! DEFINITION. Which command words the interface defines: an `Instr` is well-formed when R87
(`spec/30_encoding.md`) does not call its ARG illegal. An ill-formed one still has a meaning: the operation
raises IllegalOperation (`spec/60_exceptions.md` R244). -/

namespace Sys2Proof

/-- R87: a format-N operation has ARG 0x00; RDF names a field id of 0..17; WRF one of 0..14; no status of REPLY is
an illegal encoding. -/
def Instr.wf : Instr → Bool
  | .crc8 arg => arg == 0#8
  | .decode arg => arg == 0#8
  | .encode arg => arg == 0#8
  | .stamp arg => arg == 0#8
  | .check arg => arg == 0#8
  | .addresp arg => arg == 0#8
  | .reply _ => true
  | .new arg => arg == 0#8
  | .rdf fid => decide (fid ≤ 17#8)
  | .wrf fid => decide (fid ≤ 14#8)

end Sys2Proof
end

