-- ==== Sys2Proof/Safety.lean ====
section
/-! DEFINITION. The notions the claims about the block are stated with: the invariant a run keeps, the command
packet layout with any protocol id byte, the field that holds a byte of it, and well-formed buffers
(`spec/10_state.md` R20 to R34; `spec/30_encoding.md` R70; `spec/41_decode.md` R131, R135, R137). -/

namespace Sys2Proof.Machine

/-- Every sequence is within its capacity (R9, R20, R27, R32). -/
abbrev CapacitiesHold (p : Params) (s : State) : Prop :=
  Memory.wf p s.ibuf = true ∧ Memory.wf p s.obuf = true ∧
  s.pkt.destPathAddr.length ≤ p.cap ∧ s.pkt.srcPathAddr.length ≤ min p.cap 3 ∧
  s.pkt.data.length ≤ min p.cap (2 ^ 24 - 1) ∧ s.respData.length ≤ min p.cap (2 ^ 24 - 1)

/-- The field ids MalformedPacket may name (R123). -/
def malformedIds : List Byte := [1, 15, 17, 5, 6, 7, 8, 9, 10, 11, 12, 13, 14]

/-- ERR holds one of the codes 0..4, and ERR_FIELD is a field id exactly when ERR = 1 (R33, R34, R246). -/
abbrev ErrRegistersAgree (s : State) : Prop :=
  s.err ≤ 4#8 ∧ (s.err = 1#8 → s.errField ∈ malformedIds) ∧ (s.err ≠ 1#8 → s.errField = 0xFF#8)

/-- What holds of every packet DECODE loads (R131): its lengths agree, its path bytes are below LOGICAL_ADDR_MIN and
its logical address is not. -/
abbrev Decodable (lam : Byte) (P : Packet) : Prop :=
  P.srcAddrLen.toNat = P.srcPathAddr.length ∧ P.dataLen.toNat = P.data.length ∧
  (∀ b ∈ P.destPathAddr, b < lam) ∧ lam ≤ P.destLogicalAddr

/-- What LC says of PKT and RB (R30, R31, R128, R190): outside BUILT the packet is a decoded one; response data
exists only after ADDRESP; only a command is answered. -/
abbrev LifecycleAgrees (p : Params) (s : State) : Prop :=
  (s.lc ≠ .built → Decodable p.logicalAddrMin s.pkt) ∧
  (s.lc = .built ∨ s.lc = .decoded → s.respData = []) ∧
  (s.lc = .respPending ∨ s.lc = .replied → s.pkt.packetType = 0b01#2)

/-- The invariant of every run from reset. -/
abbrev BlockInv (p : Params) (s : State) : Prop :=
  CapacitiesHold p s ∧ ErrRegistersAgree s ∧ LifecycleAgrees p s

/-- The command packet layout of R70 with any byte in the protocol id position, written from the table's rows. -/
def commandLayout (pid : Byte) (P : Packet) : Bytes :=
  P.destPathAddr
    ++ [P.destLogicalAddr, pid, (P.packetType ++ P.command ++ P.srcAddrLen : BitVec 8), P.destKey]
    ++ P.srcPathAddr
    ++ [P.srcLogicalAddr]
    ++ [P.transactionId.extractLsb' 8 8, P.transactionId.extractLsb' 0 8]
    ++ [P.extendedAddr]
    ++ [P.memAddr.extractLsb' 24 8, P.memAddr.extractLsb' 16 8, P.memAddr.extractLsb' 8 8,
        P.memAddr.extractLsb' 0 8]
    ++ [P.dataLen.extractLsb' 16 8, P.dataLen.extractLsb' 8 8, P.dataLen.extractLsb' 0 8]
    ++ [P.headerCrc] ++ P.data ++ [P.dataCrc]

/-- The id of the field that holds byte `j` of a command packet with `p` path bytes, `k` source-path bytes and `n`
data bytes; field 1 inside the path prefix too (R70, R123, R137). -/
def fieldHolding (p k n j : Nat) : Byte :=
  if j ≤ p then 1
  else if j = p + 1 then 15
  else if j = p + 2 then 17
  else if j = p + 3 then 5
  else if j < p + 4 + k then 6
  else if j < p + 5 + k then 7
  else if j < p + 7 + k then 8
  else if j < p + 8 + k then 9
  else if j < p + 12 + k then 10
  else if j < p + 15 + k then 11
  else if j < p + 16 + k then 12
  else if j < p + 16 + k + n then 13
  else 14

/-- A well-formed buffer (R135): DECODE of it succeeds and consumes all of it, and its protocol id byte is 0x01. -/
def WellFormedBuffer (p : Params) (b : Bytes) : Prop :=
  ∃ t, execFor p (.decode 0) { State.reset with ibuf := b } = .next t ∧ t.err = 0 ∧
    t.result.toNat = b.length ∧ b[t.pkt.destPathAddr.length + 1]? = some 0x01

end Sys2Proof.Machine
end

