-- ==== Sys2Proof/Certificates/Slice0/Obligations.lean ====
section
/-! DEFINITION. The statements about the RMAP codec core, each from the numbered rules of `spec/` its docstring
names. `next` answers are written as whole states, so that each says its frame too. -/

open Sys2Proof Sys2Proof.Machine

/-! ### Reset, issue and host actions -/

/-- R270: every state element at its reset value, and NEW from any state reaches it but for IBUF, OBUF, DIN, DOUT and
RESULT, which NEW leaves. (Nothing is said of the model's own `pending` at reset, log entry 4.) -/
def Obligations.ResetLoadsEveryResetValue : Prop :=
  (∀ l : List HostAction, { State.reset with pending := l } = ({
    pkt := { destPathAddr := [], destLogicalAddr := 0x00, packetType := 0, command := 0, srcAddrLen := 0,
             destKey := 0x00, srcPathAddr := [], srcLogicalAddr := 0x00, transactionId := 0,
             extendedAddr := 0x00, memAddr := 0, dataLen := 0, headerCrc := 0x00, data := [], dataCrc := 0x00 },
    respData := [], lc := .built, ibuf := [], obuf := [], din := 0, dout := 0, result := 0,
    err := 0, errField := 0xFF, pending := l } : State)) ∧
  ∀ s : State, exec (.new 0) s = .next
    { State.reset with ibuf := s.ibuf, obuf := s.obuf, din := s.din, dout := s.dout, result := s.result,
                       pending := s.pending }

/-- A step whose next host action is a command word that decodes runs exactly that operation, with the word taken
off the host's list (log entry 4) and nothing else around it; no operation touches the list. Derived from R16,
R60, R84. -/
def Obligations.StepRunsTheDecodedCommand : Prop :=
  (∀ (s : State) (w : Half) (rest : List HostAction) (i : Instr),
    s.pending = .cmd w :: rest → decode w = .ok i → step s = exec i { s with pending := rest }) ∧
  ∀ (i : Instr) (s t : State), exec i s = .next t → t.pending = s.pending

/-- The host's other actions, and its silence: `.ibuf` replaces IBUF (within CAP; log entry 6), `.din` sets DIN,
reset loads the reset state (log entry 7), and without an action the block keeps its state (log entry 5).
Derived from R51, R57, R59, R91, R270. -/
def Obligations.HostActionsWriteOnlyTheirTarget : Prop :=
  (∀ (s : State) (b : Bytes) (rest : List HostAction), s.pending = .ibuf b :: rest →
    (b.length ≤ Config.params.cap → step s = .next { s with ibuf := b, pending := rest }) ∧
    (Config.params.cap < b.length → step s = .refused .capExceeded)) ∧
  (∀ (s : State) (v : Word) (rest : List HostAction), s.pending = .din v :: rest →
    step s = .next { s with din := v, pending := rest }) ∧
  (∀ (s : State) (rest : List HostAction), s.pending = .reset :: rest →
    step s = .next { State.reset with pending := rest }) ∧
  (∀ s : State, s.pending = [] → step s = .next s)

/-- R87: an OPC outside 0x01..0x0A, a format-N operation with ARG other than 0x00, and an RDF or WRF of a field id it
may not access raise IllegalOperation and change nothing else; REPLY of a status outside STATUS_VALID raises
InvalidStatus (where the state allows a REPLY, R248), and no REPLY raises IllegalOperation. -/
def Obligations.IllegalEncodingsRaiseIllegalOperation : Prop :=
  (∀ (s : State) (w : Half) (rest : List HostAction),
    s.pending = .cmd w :: rest → (w.toNat / 256 < 1 ∨ 10 < w.toNat / 256) →
    step s = .next { s with err := 4, errField := 0xFF, pending := rest }) ∧
  (∀ w : Half, 1 ≤ w.toNat / 256 → w.toNat / 256 ≤ 10 → ∃ i, decode w = .ok i) ∧
  (∀ (arg : Byte) (s : State), arg ≠ 0 → ∀ i ∈ [Instr.crc8 arg, .decode arg, .encode arg, .stamp arg, .check arg,
      .addresp arg, .new arg], exec i s = .next { s with err := 4, errField := 0xFF }) ∧
  (∀ (f : Byte) (s : State), 17 < f.toNat → exec (.rdf f) s = .next { s with err := 4, errField := 0xFF }) ∧
  (∀ (f : Byte) (s : State), 14 < f.toNat → exec (.wrf f) s = .next { s with err := 4, errField := 0xFF }) ∧
  (∀ (c : Byte) (s : State), c ∉ Config.params.statusValid → s.lc ≠ .built → s.pkt.packetType = 0b01#2 →
    exec (.reply c) s = .next { s with err := 3, errField := 0xFF }) ∧
  (∀ (c : Byte) (s t : State), exec (.reply c) s = .next t → t.err ≠ 4)

/-- Decoding and encoding of command words agree: every instruction, with every operand byte, comes back from its
word, and every word that decodes is the word of what it decodes to. Derived from R84, R85, R86, R89. -/
def Obligations.CommandWordsRoundTrip : Prop :=
  (∀ i : Instr, decode (encode i) = .ok i) ∧
  (∀ (w : Half) (i : Instr), decode w = .ok i → encode i = w) ∧
  ∀ i : Instr, (encode i).toNat = i.opcode.toNat * 256 + i.argument.toNat

/-- Command words written out from R86's table and R90's examples decode to the operations they stand for. -/
def Obligations.WrittenOutWordsDecode : Prop :=
  decode 0b0000000100000000 = .ok (.crc8 0) ∧ decode 0b0000001000000000 = .ok (.decode 0) ∧
  decode 0b0000001100000000 = .ok (.encode 0) ∧ decode 0b0000010000000000 = .ok (.stamp 0) ∧
  decode 0b0000010100000000 = .ok (.check 0) ∧ decode 0b0000011000000000 = .ok (.addresp 0) ∧
  decode 0b0000011100000101 = .ok (.reply 5) ∧ decode 0b0000100000000000 = .ok (.new 0) ∧
  decode 0b0000100100001000 = .ok (.rdf 8) ∧ decode 0b0000101000001101 = .ok (.wrf 13) ∧
  decode 0b0000000000000000 = .error (.illegalOpcode 0) ∧ decode 0b0000101100000000 = .error (.illegalOpcode 0x0B)

/-- Lines of text and what they stand for: each format-N mnemonic alone, `REPLY #s` in decimal and in hex, `RDF` and
`WRF` of a field name or a number, `.ibuf` with and without bytes, `.din`. Derived from R90, R91 (text conventions: log
entry 12). -/
def Obligations.AssemblerLinesGiveTheirWords : Prop :=
  assembleLine "CRC8" = some (.cmd 0x0100) ∧ assembleLine "DECODE" = some (.cmd 0x0200) ∧
  assembleLine "ENCODE" = some (.cmd 0x0300) ∧ assembleLine "STAMP" = some (.cmd 0x0400) ∧
  assembleLine "CHECK" = some (.cmd 0x0500) ∧ assembleLine "ADDRESP" = some (.cmd 0x0600) ∧
  assembleLine "REPLY #0" = some (.cmd 0x0700) ∧ assembleLine "REPLY #0x0C" = some (.cmd 0x070C) ∧
  assembleLine "NEW" = some (.cmd 0x0800) ∧ assembleLine "RDF TID" = some (.cmd 0x0908) ∧
  assembleLine "WRF DATA" = some (.cmd 0x0A0D) ∧ assembleLine "RDF 18" = some (.cmd 0x0912) ∧
  assembleLine ".ibuf F0 0D CA FE" = some (.ibuf [0xF0, 0x0D, 0xCA, 0xFE]) ∧
  assembleLine ".ibuf" = some (.ibuf []) ∧ assembleLine ".din 0x6070" = some (.din 0x6070)

/-- `exec` and `step` are the parametric machine at `Config.params`: what is said of `execFor p` and `stepFor p` for
every admitted parameter set holds of them (R5, R7, R9), and the machine's own parameters are admitted. -/
def Obligations.ExecIsTheParametricMachine : Prop :=
  (∀ (i : Instr) (s : State), exec i s = execFor Config.params i s) ∧
  (∀ s : State, step s = stepFor Config.params s) ∧ Config.params.wf = true

/-! ### The CRC-8 engine -/

/-- R101: the empty sequence leaves the seed 0x00, bytes are taken in index order, and one byte is eight conditional
right shifts of `c xor b` with 0xE0. -/
def Obligations.CrcIsTheBitSerialAlgorithm : Prop :=
  crc8 [] = 0x00 ∧ (∀ (s : Bytes) (b : Byte), crc8 (s ++ [b]) = crc8Step (crc8 s) b) ∧
  ∀ c b : Byte, crc8Step c b =
    Nat.iterate (fun x => if x.getLsbD 0 then (x >>> 1) ^^^ 0xE0#8 else x >>> 1) 8 (c ^^^ b)

/-- R102: the spec's printed table `T` has its 256 entries `T[i] = crc8_step(0x00, i)`, a step is one look-up, and the
table implementation and the bit-serial one agree on every input. -/
def Obligations.TableCrcEqualsBitSerialCrc : Prop :=
  crcTable.length = 256 ∧ crcTable.take 4 = [0x00, 0x91, 0xE3, 0x72] ∧
  (∀ i : Byte, crcTable[i.toNat]? = some (crc8Step 0x00 i)) ∧
  (∀ c b : Byte, crcTable[(c ^^^ b).toNat]? = some (crc8Step c b)) ∧
  ∀ s : Bytes, crc8ByTable s = crc8 s

/-- R105: the three vectors of the source. -/
def Obligations.CrcReproducesTheSourceVectors : Prop :=
  crc8 [0x01, 0x02, 0x03, 0x04, 0x05, 0x06, 0x07, 0x08] = 0xB0 ∧
  crc8 [0x53, 0x70, 0x61, 0x63, 0x65, 0x57, 0x69, 0x72, 0x65, 0x20, 0x69, 0x73, 0x20, 0x62, 0x65, 0x61,
        0x75, 0x74, 0x69, 0x66, 0x75, 0x6C, 0x21, 0x21] = 0x84 ∧
  crc8 [0x10, 0x56, 0xC3, 0x95, 0xA5, 0x75, 0x38, 0x63, 0x2F, 0x86, 0x7B, 0x01, 0x32, 0xDE, 0x35, 0x7A] = 0x18

/-- R103: (a) the empty sequence, (b) zero bytes, (c) the residue, (d) linearity over bytewise xor. -/
def Obligations.CrcIsLinearWithZeroResidue : Prop :=
  crc8 [] = 0x00 ∧ (∀ n : Nat, crc8 (List.replicate n 0x00) = 0x00) ∧
  (∀ s : Bytes, crc8 (s ++ [crc8 s]) = 0x00) ∧
  ∀ a b : Bytes, a.length = b.length → crc8 (List.zipWith (· ^^^ ·) a b) = crc8 a ^^^ crc8 b

/-- R104: CRC8, its encoding, its one write and its one error. (Beyond CAP it is refused: see
`RefusedExactlyBeyondCap`.) -/
def Obligations.CrcOperationWritesTheCrcOfIbuf : Prop :=
  decode 0x0100 = .ok (.crc8 0) ∧
  (∀ s : State, s.ibuf.length ≤ Config.params.cap →
    exec (.crc8 0) s = .next { s with result := (crc8 s.ibuf).setWidth 32, err := 0, errField := 0xFF }) ∧
  ∀ (arg : Byte) (s : State), arg ≠ 0 → exec (.crc8 arg) s = .next { s with err := 4, errField := 0xFF }

/-! ### The packet decoder -/

/-- R133, R127 (and the successful case of R122, R124, R126, R130): for every packet whose lengths agree and whose
path and logical address stand on their sides of LOGICAL_ADDR_MIN, a buffer that begins with its layout (any protocol
id byte, any CRC bytes, any bytes after) is decoded to it, and RESULT is p + k + n + 17. -/
def Obligations.DecodeLoadsThePacketOfTheBuffer : Prop :=
  ∀ (s : State) (P : Packet) (pid : Byte) (tail : Bytes),
    Decodable Config.params.logicalAddrMin P → s.ibuf = commandLayout pid P ++ tail →
    s.ibuf.length ≤ Config.params.cap →
    exec (.decode 0) s = .next { s with
      pkt := P, respData := [], lc := .decoded,
      result := BitVec.ofNat 32
        (P.destPathAddr.length + P.srcAddrLen.toNat + P.dataLen.toNat + 17),
      err := 0, errField := 0xFF }

/-- R131, R133, R128, and the converse of `DecodeLoadsThePacketOfTheBuffer`: DECODE succeeds on nothing else, the
packet loaded is the one laid out in IBUF, with consistent lengths and its path told from its logical address, RB is
emptied, and RESULT is the count of bytes consumed. -/
def Obligations.DecodeAcceptsOnlyTheCommandLayout : Prop :=
  ∀ s t : State, exec (.decode 0) s = .next t → t.err = 0 →
    Decodable Config.params.logicalAddrMin t.pkt ∧
    (∃ (pid : Byte) (tail : Bytes), s.ibuf = commandLayout pid t.pkt ++ tail ∧
      t.result.toNat = (commandLayout pid t.pkt).length) ∧
    t.result.toNat = t.pkt.destPathAddr.length + t.pkt.srcAddrLen.toNat + t.pkt.dataLen.toNat + 17 ∧
    t = { s with pkt := t.pkt, respData := [], lc := .decoded, result := t.result, err := 0, errField := 0xFF }

/-- R137: cutting a command packet at byte `j` makes DECODE raise MalformedPacket naming the field that holds byte
`j`, or field 1 within the path prefix or at dest_logical_addr; nothing but ERR and ERR_FIELD changes. First for every
command packet, whatever its protocol id byte, then for every well-formed buffer. -/
def Obligations.TruncationNamesTheFieldCutInto : Prop :=
  (∀ (s : State) (P : Packet) (pid : Byte) (j : Nat),
    Decodable Config.params.logicalAddrMin P → j < (commandLayout pid P).length →
    s.ibuf = (commandLayout pid P).take j → s.ibuf.length ≤ Config.params.cap →
    exec (.decode 0) s = .next { s with
      err := 1,
      errField := fieldHolding P.destPathAddr.length P.srcAddrLen.toNat P.dataLen.toNat j }) ∧
  ∀ (s : State) (b : Bytes) (j : Nat), WellFormedBuffer Config.params b → j < b.length → s.ibuf = b.take j →
    ∃ P : Packet, Decodable Config.params.logicalAddrMin P ∧ b = commandLayout 0x01 P ∧
      exec (.decode 0) s = .next { s with
        err := 1,
        errField := fieldHolding P.destPathAddr.length P.srcAddrLen.toNat P.dataLen.toNat j }

/-- R241: MalformedPacket has one cause. Whenever DECODE fails, its input is a proper prefix of some command packet,
cut into the field that ERR_FIELD names; no other operation ever raises it. -/
def Obligations.MalformedPacketMeansTruncation : Prop :=
  (∀ s t : State, exec (.decode 0) s = .next t → t.err ≠ 0 →
    t.err = 1 ∧ ∃ (P : Packet) (pid : Byte) (j : Nat),
      Decodable Config.params.logicalAddrMin P ∧ j < (commandLayout pid P).length ∧
      s.ibuf = (commandLayout pid P).take j ∧
      t.errField = fieldHolding P.destPathAddr.length P.srcAddrLen.toNat P.dataLen.toNat j) ∧
  ∀ (i : Instr) (s t : State), exec i s = .next t → t.err = 1 → i = .decode 0

/-- R132: DECODE does not write IBUF, and a second DECODE gives the same PKT and RESULT, or the same error. -/
def Obligations.DecodeTwiceGivesTheSame : Prop :=
  ∀ (arg : Byte) (s t : State), exec (.decode arg) s = .next t →
    t.ibuf = s.ibuf ∧ ∃ u, exec (.decode arg) t = .next u ∧ u.ibuf = s.ibuf ∧ u.pkt = t.pkt ∧
      u.result = t.result ∧ u.err = t.err ∧ u.errField = t.errField

/-- R125: DECODE compares the protocol id with nothing and keeps no trace of it, and re-encoding gives 0x01 in its
place. -/
def Obligations.ProtocolIdIsReadAndLost : Prop :=
  ∀ (s : State) (P : Packet) (pid : Byte) (tail : Bytes),
    Decodable Config.params.logicalAddrMin P → s.ibuf = commandLayout pid P ++ tail →
    s.ibuf.length ≤ Config.params.cap →
    ∃ t u v, exec (.decode 0) s = .next t ∧ t.err = 0 ∧
      exec (.decode 0) { s with ibuf := commandLayout 0x01 P ++ tail } = .next u ∧ u.pkt = t.pkt ∧
      exec (.encode 0) t = .next v ∧ v.err = 0 ∧ v.obuf = commandLayout 0x01 P

/-- R157: after DECODE, `hdr(PKT)` is the received header (with 0x01 in the place of another protocol id), and CHECK
compares the received CRC bytes with the CRCs of those bytes. -/
def Obligations.CheckAfterDecodeComparesReceivedBytes : Prop :=
  ∀ s t : State, exec (.decode 0) s = .next t → t.err = 0 →
    ∃ (hd : Bytes) (pid : Byte) (u : State),
      (s.ibuf.drop t.pkt.destPathAddr.length).take (15 + t.pkt.srcAddrLen.toNat) =
        t.pkt.destLogicalAddr :: pid :: hd ∧
      hdr t.pkt = t.pkt.destLogicalAddr :: 0x01 :: hd ∧
      s.ibuf[t.pkt.destPathAddr.length + 15 + t.pkt.srcAddrLen.toNat]? = some t.pkt.headerCrc ∧
      exec (.check 0) t = .next u ∧ u.err = 0 ∧
      (u.result.getLsbD 0 = true ↔ crc8 (t.pkt.destLogicalAddr :: 0x01 :: hd) = t.pkt.headerCrc) ∧
      (u.result.getLsbD 1 = true ↔ crc8 t.pkt.data = t.pkt.dataCrc)

/-- R136: for every parameter set the spec admits and every well-formed buffer, DECODE then ENCODE writes the buffer
back, byte for byte. -/
def Obligations.DecodeThenEncodeGivesBackTheBuffer : Prop :=
  ∀ (p : Params), p.wf = true → ∀ (s : State), WellFormedBuffer p s.ibuf →
    ∃ t u, execFor p (.decode 0) s = .next t ∧ t.err = 0 ∧
      execFor p (.encode 0) t = .next u ∧ u.err = 0 ∧ u.obuf = s.ibuf

/-- The other way round, for every admitted parameter set: a packet whose lengths agree and whose path and logical
address DECODE would tell apart comes back whole from ENCODE, a host copy of OBUF into IBUF, and DECODE. Derived
from R76, R124, R152 (which says why the condition is needed). -/
def Obligations.EncodeThenDecodeGivesBackThePacket : Prop :=
  ∀ (p : Params), p.wf = true → ∀ (s : State), Decodable p.logicalAddrMin s.pkt →
    (enc s.pkt).length ≤ p.cap →
    ∃ t u, execFor p (.encode 0) s = .next t ∧ t.err = 0 ∧
      execFor p (.decode 0) { t with ibuf := t.obuf } = .next u ∧ u.err = 0 ∧
      u.pkt = s.pkt ∧ u.result.toNat = t.obuf.length

/-! ### Encode, stamp and check -/

/-- R151: ENCODE in each of its cases. -/
def Obligations.EncodeSerializesPkt : Prop :=
  decode 0x0300 = .ok (.encode 0) ∧
  (∀ s : State, s.pkt.srcAddrLen.toNat = s.pkt.srcPathAddr.length → s.pkt.dataLen.toNat = s.pkt.data.length →
    (enc s.pkt).length ≤ Config.params.cap →
    exec (.encode 0) s = .next { s with obuf := enc s.pkt, err := 0, errField := 0xFF }) ∧
  (∀ s : State, s.pkt.srcAddrLen.toNat ≠ s.pkt.srcPathAddr.length ∨ s.pkt.dataLen.toNat ≠ s.pkt.data.length →
    exec (.encode 0) s = .next { s with err := 2, errField := 0xFF }) ∧
  ∀ (arg : Byte) (s : State), arg ≠ 0 → exec (.encode arg) s = .next { s with err := 4, errField := 0xFF }

/-- R154: the output's length; and R70's offsets of every field in it, the multi-byte ones most significant byte
first (R53). -/
def Obligations.EncodedBytesStandAtTheirOffsets : Prop :=
  ∀ P : Packet, inv P = true →
    let p := P.destPathAddr.length
    let k := P.srcAddrLen.toNat
    let n := P.dataLen.toNat
    let e := enc P
    e.length = p + k + n + 17 ∧ e.take p = P.destPathAddr ∧ e[p]? = some P.destLogicalAddr ∧
    e[p + 1]? = some 0x01 ∧
    (∃ ib, e[p + 2]? = some ib ∧ ib.toNat = P.packetType.toNat * 64 + P.command.toNat * 4 + P.srcAddrLen.toNat) ∧
    e[p + 3]? = some P.destKey ∧ (e.drop (p + 4)).take k = P.srcPathAddr ∧
    e[p + 4 + k]? = some P.srcLogicalAddr ∧
    fromBe ((e.drop (p + 5 + k)).take 2) = P.transactionId.toNat ∧ e[p + 7 + k]? = some P.extendedAddr ∧
    fromBe ((e.drop (p + 8 + k)).take 4) = P.memAddr.toNat ∧
    fromBe ((e.drop (p + 12 + k)).take 3) = P.dataLen.toNat ∧ e[p + 15 + k]? = some P.headerCrc ∧
    (e.drop (p + 16 + k)).take n = P.data ∧ e[p + 16 + k + n]? = some P.dataCrc ∧
    (e.drop p).take (15 + k) = hdr P

/-- R155: STAMP in each of its cases. -/
def Obligations.StampStoresBothCrcs : Prop :=
  decode 0x0400 = .ok (.stamp 0) ∧
  (∀ s : State, s.lc = .built → inv s.pkt = true →
    exec (.stamp 0) s = .next { s with
      pkt := { s.pkt with headerCrc := crc8 (hdr s.pkt), dataCrc := crc8 s.pkt.data },
      err := 0, errField := 0xFF }) ∧
  (∀ s : State, s.lc ≠ .built ∨ inv s.pkt = false →
    exec (.stamp 0) s = .next { s with err := 2, errField := 0xFF }) ∧
  ∀ (arg : Byte) (s : State), arg ≠ 0 → exec (.stamp arg) s = .next { s with err := 4, errField := 0xFF }

/-- R156: CHECK in each of its cases, bit by bit of RESULT. -/
def Obligations.CheckReportsBothMatches : Prop :=
  decode 0x0500 = .ok (.check 0) ∧
  (∀ s : State, inv s.pkt = true → ∃ r : Word,
    exec (.check 0) s = .next { s with result := r, err := 0, errField := 0xFF } ∧
    (r.getLsbD 0 = true ↔ crc8 (hdr s.pkt) = s.pkt.headerCrc) ∧
    (r.getLsbD 1 = true ↔ crc8 s.pkt.data = s.pkt.dataCrc) ∧ r.toNat < 4) ∧
  (∀ s : State, inv s.pkt = false → exec (.check 0) s = .next { s with err := 2, errField := 0xFF }) ∧
  ∀ (arg : Byte) (s : State), arg ≠ 0 → exec (.check arg) s = .next { s with err := 4, errField := 0xFF }

/-- R158: after a successful STAMP, CHECK gives 3; it goes on giving 3 through every operation but a WRF of another
field than DEST_PATH (which no CRC covers) and the two operations that load another packet; and hdr_ok is the zero
residue of the header followed by its CRC. -/
def Obligations.StampedPacketPassesCheck : Prop :=
  (∀ s t : State, exec (.stamp 0) s = .next t → t.err = 0 →
    exec (.check 0) t = .next { t with result := 3, err := 0, errField := 0xFF }) ∧
  (∀ (i : Instr) (s t : State),
    exec (.check 0) s = .next { s with result := 3, err := 0, errField := 0xFF } → exec i s = .next t →
    (∀ f, i = .wrf f → f = 0) → (∀ a, i ≠ .new a) → (∀ a, i ≠ .decode a) →
    exec (.check 0) t = .next { t with result := 3, err := 0, errField := 0xFF }) ∧
  ∀ P : Packet, crc8 (hdr P ++ [P.headerCrc]) = 0x00 ↔ crc8 (hdr P) = P.headerCrc

/-- A CRC mismatch is never an error: whatever the two stored CRC bytes, every operation reports the same ERR and
ERR_FIELD. Derived from R249 (DECODE's received CRC bytes are covered by `DecodeLoadsThePacketOfTheBuffer`). -/
def Obligations.StoredCrcsNeverDecideAnError : Prop :=
  ∀ (i : Instr) (s t : State) (h d : Byte), exec i s = .next t →
    ∃ u, exec i { s with pkt := { s.pkt with headerCrc := h, dataCrc := d } } = .next u ∧
      u.err = t.err ∧ u.errField = t.errField

/-! ### Reply construction -/

/-- R180: ADDRESP in each of its cases. -/
def Obligations.AddrespAttachesIbuf : Prop :=
  decode 0x0600 = .ok (.addresp 0) ∧
  (∀ s : State, s.lc = .decoded ∨ s.lc = .respPending → s.pkt.packetType = 0b01#2 →
    s.ibuf.length ≤ 2 ^ 24 - 1 →
    exec (.addresp 0) s = .next { s with respData := s.ibuf, lc := .respPending, err := 0, errField := 0xFF }) ∧
  (∀ s : State, s.ibuf.length ≤ Config.params.cap →
    s.lc = .built ∨ s.lc = .replied ∨ s.pkt.packetType ≠ 0b01#2 ∨ 2 ^ 24 - 1 < s.ibuf.length →
    exec (.addresp 0) s = .next { s with err := 2, errField := 0xFF }) ∧
  ∀ (arg : Byte) (s : State), arg ≠ 0 → exec (.addresp arg) s = .next { s with err := 4, errField := 0xFF }

/-- R77: the write reply, byte by byte: prefix, the two identifiers swapped, protocol id, the instruction byte with
reply type, command kept and source length cleared, the status, the transaction id, one CRC and no data, at every
admitted status (R185). -/
def Obligations.WriteReplyLayout : Prop :=
  ∀ (c : Byte) (s : State), s.lc ≠ .built → s.pkt.packetType = 0b01#2 → c ∈ Config.params.statusValid →
    s.pkt.command.getLsbD 3 = true → s.pkt.srcPathAddr.length + 8 ≤ Config.params.cap →
    let h : Bytes := [s.pkt.srcLogicalAddr, 0x01, (0b00#2 ++ s.pkt.command ++ 0b00#2 : BitVec 8), c,
      s.pkt.destLogicalAddr, s.pkt.transactionId.extractLsb' 8 8, s.pkt.transactionId.extractLsb' 0 8]
    exec (.reply c) s = .next { s with
      obuf := s.pkt.srcPathAddr ++ h ++ [crc8 h], lc := .replied, err := 0, errField := 0xFF }

/-- The read reply, byte by byte: the write reply's head, a reserved 0x00, the data length, the header CRC, the data
and its CRC; the data is RB's at status 0x00 and empty at every other. Derived from the offset table and `rreply` of
R78, from R79, R184 and R185 (the layout itself: log entry 13; R78's sentence on the total length differs by one from
its own table: log entry 15). -/
def Obligations.ReadReplyLayout : Prop :=
  ∀ (c : Byte) (s : State), s.lc ≠ .built → s.pkt.packetType = 0b01#2 → c ∈ Config.params.statusValid →
    s.pkt.command.getLsbD 3 = false → s.respData.length ≤ 2 ^ 24 - 1 →
    let d : Bytes := if c = 0x00 then s.respData else []
    s.pkt.srcPathAddr.length + d.length + 13 ≤ Config.params.cap →
    ∃ l2 l1 l0 : Byte, l2.toNat * 65536 + l1.toNat * 256 + l0.toNat = d.length ∧
      let h : Bytes := [s.pkt.srcLogicalAddr, 0x01, (0b00#2 ++ s.pkt.command ++ 0b00#2 : BitVec 8), c,
        s.pkt.destLogicalAddr, s.pkt.transactionId.extractLsb' 8 8, s.pkt.transactionId.extractLsb' 0 8,
        0x00, l2, l1, l0]
      exec (.reply c) s = .next { s with
        obuf := s.pkt.srcPathAddr ++ h ++ [crc8 h] ++ d ++ [crc8 d], lc := .replied, err := 0, errField := 0xFF }

/-- For every parameter set: a status outside STATUS_VALID raises InvalidStatus and writes nothing else, once the state
allows a REPLY (R248); before that, InvalidPacketState. And under the machine's own parameters, which are the model's
choice (log entry 2, the spec's default), the valid statuses are 0 to 12. Derived from R7, R183, R248. -/
def Obligations.StatusOutsideTheEnumerationIsInvalid : Prop :=
  (∀ (p : Params) (c : Byte) (s : State), s.lc ≠ .built → s.pkt.packetType = 0b01#2 → c ∉ p.statusValid →
    execFor p (.reply c) s = .next { s with err := 3, errField := 0xFF }) ∧
  (∀ (p : Params) (c : Byte) (s : State), s.lc = .built ∨ s.pkt.packetType ≠ 0b01#2 →
    execFor p (.reply c) s = .next { s with err := 2, errField := 0xFF }) ∧
  (∀ c : Byte, c ∈ Config.params.statusValid ↔ c.toNat ≤ 12)

/-- R186: a second REPLY with the same status leaves the state as the first left it; after a REPLY another status gives
what it would have given at first; and the reply bytes are a function of PKT, RB and the status alone, which REPLY
does not change. -/
def Obligations.ReplyIsIdempotent : Prop :=
  (∀ (c : Byte) (s t : State), exec (.reply c) s = .next t → exec (.reply c) t = .next t) ∧
  (∀ (c : Byte) (s t : State), exec (.reply c) s = .next t → t.pkt = s.pkt ∧ t.respData = s.respData) ∧
  (∀ (c c' : Byte) (s t u : State), exec (.reply c) s = .next t → t.err = 0 → exec (.reply c') s = .next u →
    u.err = 0 → exec (.reply c') t = .next u) ∧
  ∀ (c : Byte) (s s' t t' : State), s'.pkt = s.pkt → s'.respData = s.respData →
    exec (.reply c) s = .next t → t.err = 0 → exec (.reply c) s' = .next t' → t'.err = 0 → t'.obuf = t.obuf

/-- R181: REPLY and ADDRESP neither read nor write the command's own payload and its CRC: with any other payload the
same happens. -/
def Obligations.ReplyNeverReadsThePayload : Prop :=
  ∀ (i : Instr) (s t : State) (d : Bytes) (c : Byte),
    ((∃ x, i = .reply x) ∨ (∃ x, i = .addresp x)) → exec i s = .next t →
    t.pkt = s.pkt ∧
    exec i { s with pkt := { s.pkt with data := d, dataCrc := c } } =
      .next { t with pkt := { t.pkt with data := d, dataCrc := c } }

/-- After ADDRESP, RB holds exactly the bytes of IBUF and RDF 16 returns them (R189); a read reply carries them and a
write reply does not. Where they stand in the read reply rests on the layout the spec takes from general knowledge
(log entry 13) and on its length q + m + 13 (log entry 15). Derived from R77, R78, R185, R189. -/
def Obligations.ResponseDataIsWhatWasAttached : Prop :=
  ∀ s t : State, exec (.addresp 0) s = .next t → t.err = 0 →
    t.respData = s.ibuf ∧
    (∃ u, exec (.rdf 16) t = .next u ∧ u.err = 0 ∧ u.obuf = s.ibuf ∧ u.dout.toNat = s.ibuf.length) ∧
    ∀ v, exec (.reply 0) t = .next v →
      (t.pkt.command.getLsbD 3 = false → ∃ pre : Bytes, pre.length = t.pkt.srcPathAddr.length + 12 ∧
        v.obuf = pre ++ s.ibuf ++ [crc8 s.ibuf]) ∧
      (t.pkt.command.getLsbD 3 = true → v.obuf.length = t.pkt.srcPathAddr.length + 8)

/-- R190: outside BUILT the length invariants hold, and every step keeps that. -/
def Obligations.DecodedPacketKeepsItsLengths : Prop :=
  ∀ s t : State, (s.lc ≠ .built → inv s.pkt = true) → step s = .next t → t.lc ≠ .built → inv t.pkt = true

/-! ### Packet construction and field access -/

/-- R210: NEW in each of its cases. -/
def Obligations.NewLoadsTheEmptyPacket : Prop :=
  decode 0x0800 = .ok (.new 0) ∧
  (∀ s : State, exec (.new 0) s = .next { s with
    pkt := State.reset.pkt, respData := [], lc := .built, err := 0, errField := 0xFF }) ∧
  ∀ (arg : Byte) (s : State), arg ≠ 0 → exec (.new arg) s = .next { s with err := 4, errField := 0xFF }

/-- R211: RDF of every field id. A scalar goes to DOUT, zero-extended; a sequence goes to OBUF and its length to DOUT
(within CAP: `RefusedExactlyBeyondCap`). -/
def Obligations.RdfReadsEveryField : Prop :=
  (∀ (s : State) (v : Word),
    ∀ fv ∈ [((1 : Byte), s.pkt.destLogicalAddr.toNat), (2, s.pkt.packetType.toNat), (3, s.pkt.command.toNat),
      (4, s.pkt.srcAddrLen.toNat), (5, s.pkt.destKey.toNat), (7, s.pkt.srcLogicalAddr.toNat),
      (8, s.pkt.transactionId.toNat), (9, s.pkt.extendedAddr.toNat), (10, s.pkt.memAddr.toNat),
      (11, s.pkt.dataLen.toNat), (12, s.pkt.headerCrc.toNat), (14, s.pkt.dataCrc.toNat), (15, 1),
      (17, s.pkt.packetType.toNat * 64 + s.pkt.command.toNat * 4 + s.pkt.srcAddrLen.toNat)],
    v.toNat = fv.2 → exec (.rdf fv.1) s = .next { s with dout := v, err := 0, errField := 0xFF }) ∧
  (∀ (s : State),
    ∀ fb ∈ [((0 : Byte), s.pkt.destPathAddr), (6, s.pkt.srcPathAddr), (13, s.pkt.data), (16, s.respData)],
    fb.2.length ≤ Config.params.cap →
    exec (.rdf fb.1) s = .next { s with
      obuf := fb.2, dout := BitVec.ofNat 32 fb.2.length, err := 0, errField := 0xFF }) ∧
  ∀ (f : Byte) (s : State), 17 < f.toNat → exec (.rdf f) s = .next { s with err := 4, errField := 0xFF }

/-- R216: WRF of every scalar field of a packet under construction, at every value of DIN: a value below 2^width is
stored whole, any other raises IllegalOperation and writes nothing. -/
def Obligations.WrfStoresScalarsThatFit : Prop :=
  ∀ s : State, s.lc = .built →
    ∀ row ∈ [((1 : Byte), 8, { s.pkt with destLogicalAddr := s.din.setWidth 8 }),
      (2, 2, { s.pkt with packetType := s.din.setWidth 2 }), (3, 4, { s.pkt with command := s.din.setWidth 4 }),
      (4, 2, { s.pkt with srcAddrLen := s.din.setWidth 2 }), (5, 8, { s.pkt with destKey := s.din.setWidth 8 }),
      (7, 8, { s.pkt with srcLogicalAddr := s.din.setWidth 8 }),
      (8, 16, { s.pkt with transactionId := s.din.setWidth 16 }),
      (9, 8, { s.pkt with extendedAddr := s.din.setWidth 8 }), (10, 32, { s.pkt with memAddr := s.din }),
      (11, 24, { s.pkt with dataLen := s.din.setWidth 24 }),
      (12, 8, { s.pkt with headerCrc := s.din.setWidth 8 }),
      (14, 8, { s.pkt with dataCrc := s.din.setWidth 8 })],
    exec (.wrf row.1) s = .next
      (if s.din.toNat < 2 ^ row.2.1 then { s with pkt := row.2.2, err := 0, errField := 0xFF }
       else { s with err := 4, errField := 0xFF })

/-- R215, and R214's length checks: WRF of a sequence field copies IBUF byte for byte, `src_path_addr` up to 3 bytes
and `data` up to 2^24 - 1; longer raises IllegalOperation and writes nothing. Derived. -/
def Obligations.WrfCopiesSequencesThatFit : Prop :=
  ∀ s : State, s.lc = .built → s.ibuf.length ≤ Config.params.cap →
    exec (.wrf 0) s = .next { s with
      pkt := { s.pkt with destPathAddr := s.ibuf }, err := 0, errField := 0xFF } ∧
    exec (.wrf 6) s = .next
      (if s.ibuf.length ≤ 3 then { s with pkt := { s.pkt with srcPathAddr := s.ibuf }, err := 0, errField := 0xFF }
       else { s with err := 4, errField := 0xFF }) ∧
    exec (.wrf 13) s = .next
      (if s.ibuf.length ≤ 2 ^ 24 - 1 then { s with pkt := { s.pkt with data := s.ibuf }, err := 0, errField := 0xFF }
       else { s with err := 4, errField := 0xFF })

/-- R217, R219: WRF of a read-only or unknown field id raises IllegalOperation in every LC; of a writable one outside
BUILT, InvalidPacketState. -/
def Obligations.WrfIsOnlyForPacketsUnderConstruction : Prop :=
  ∀ (f : Byte) (s : State),
    (14 < f.toNat → exec (.wrf f) s = .next { s with err := 4, errField := 0xFF }) ∧
    (f.toNat ≤ 14 → s.lc ≠ .built → exec (.wrf f) s = .next { s with err := 2, errField := 0xFF })

/-- What WRF writes RDF reads back, and every other field of PKT and RB reads as before: a length field and its
sequence, and the CRC fields, are independent (R218). Derived from R211, R214, R218. -/
def Obligations.WrittenFieldReadsBackAlone : Prop :=
  ∀ (f : Byte) (s t : State), exec (.wrf f) s = .next t → t.err = 0 →
    (∀ fld, fieldOfId f = some fld →
      (∀ x, fld = .scalar x → readField t fld = .scalar s.din) ∧
      (∀ x, fld = .seq x → readField t fld = .seq s.ibuf)) ∧
    ∀ (g : Byte) (fld : Field), g ≠ f → fieldOfId g = some fld → fld ≠ .instruction →
      readField t fld = readField s fld

/-- RDF shows the whole of PKT and RB: two states in which RDF of every field id leaves the host the same DOUT and
OBUF hold the same packet and the same response data. Derived from R255. -/
def Obligations.RdfObservesTheWholePacket : Prop :=
  ∀ s s' : State, CapacitiesHold Config.params s → CapacitiesHold Config.params s' →
    (∀ (f : Byte) (t t' : State), exec (.rdf f) s = .next t → exec (.rdf f) s' = .next t' →
      t.err = 0 → hostRead t .dout = hostRead t' .dout ∧
        (f = 0 ∨ f = 6 ∨ f = 13 ∨ f = 16 → hostRead t .obuf = hostRead t' .obuf)) →
    s.pkt = s'.pkt ∧ s.respData = s'.respData

/-! ### The whole machine -/

/-- R31: the lifecycle table. LC moves only as its rows say; ADDRESP, REPLY, WRF and STAMP fail from the LC values
their rows name; no other operation's outcome depends on LC. -/
def Obligations.LifecycleMovesAsTheTableSays : Prop :=
  (∀ (i : Instr) (s t : State), exec i s = .next t → t.err = 0 →
    (∀ a, i = .decode a → t.lc = .decoded) ∧ (∀ a, i = .new a → t.lc = .built) ∧
    (∀ a, i = .addresp a → (s.lc = .decoded ∨ s.lc = .respPending) ∧ t.lc = .respPending) ∧
    (∀ a, i = .reply a → s.lc ≠ .built ∧ t.lc = .replied) ∧
    (∀ a, (i = .wrf a ∨ i = .stamp a) → s.lc = .built ∧ t.lc = .built) ∧
    (∀ a, (i = .encode a ∨ i = .check a ∨ i = .crc8 a ∨ i = .rdf a) → t.lc = s.lc)) ∧
  (∀ (i : Instr) (s t : State), exec i s = .next t → t.err ≠ 0 → t.lc = s.lc) ∧
  (∀ s : State, s.lc = .built ∨ s.lc = .replied →
    exec (.addresp 0) s = .next { s with err := 2, errField := 0xFF }) ∧
  (∀ (c : Byte) (s : State), s.lc = .built → exec (.reply c) s = .next { s with err := 2, errField := 0xFF }) ∧
  (∀ s : State, s.lc ≠ .built → exec (.stamp 0) s = .next { s with err := 2, errField := 0xFF } ∧
    ∀ f : Byte, f.toNat ≤ 14 → exec (.wrf f) s = .next { s with err := 2, errField := 0xFF }) ∧
  (∀ (a : Byte) (l : Lifecycle) (s t : State),
    ∀ i ∈ [Instr.decode a, .new a, .encode a, .check a, .crc8 a, .rdf a], exec i s = .next t →
      ∃ u, exec i { s with lc := l } = .next u ∧ u.err = t.err ∧ u.errField = t.errField)

/-- R245: whatever operation fails, only ERR and ERR_FIELD change. -/
def Obligations.FailedOperationChangesOnlyErr : Prop :=
  ∀ (i : Instr) (s t : State), exec i s = .next t → t.err ≠ 0 →
    t = { s with err := t.err, errField := t.errField }

/-- ERR_FIELD is one of R123's field ids when ERR = 1 and 0xFF otherwise, and ERR is one of 0..4. (Which id it is:
`MalformedPacketMeansTruncation`.) Derived from R33, R34, R123, R246. -/
def Obligations.ErrFieldNamesAFieldOnlyForMalformedPacket : Prop :=
  ∀ (i : Instr) (s t : State), exec i s = .next t →
    t.err ≤ 4#8 ∧ (t.err = 1 → t.errField ∈ ([1, 15, 17, 5, 6, 7, 8, 9, 10, 11, 12, 13, 14] : List Byte)) ∧
    (t.err ≠ 1 → t.errField = 0xFF)

/-- R244: the causes of IllegalOperation, and no others (causes 5 and 6 after WRF's LC check, R248). Cause 1, an
illegal OPC, is in `IllegalEncodingsRaiseIllegalOperation`. Derived. -/
def Obligations.IllegalOperationHasTheseCauses : Prop :=
  ∀ (i : Instr) (s t : State), exec i s = .next t →
    (t.err = 4 ↔
      (∃ a : Byte, a ≠ 0 ∧ (i = .crc8 a ∨ i = .decode a ∨ i = .encode a ∨ i = .stamp a ∨ i = .check a ∨
        i = .addresp a ∨ i = .new a)) ∨
      (∃ f : Byte, 17 < f.toNat ∧ i = .rdf f) ∨ (∃ f : Byte, 14 < f.toNat ∧ i = .wrf f) ∨
      (s.lc = .built ∧ ∃ (f : Byte) (x : ScalarField), i = .wrf f ∧ fieldOfId f = some (.scalar x) ∧
        2 ^ scalarWidth x ≤ s.din.toNat) ∨
      (s.lc = .built ∧ i = .wrf 6 ∧ 3 < s.ibuf.length) ∨
      (s.lc = .built ∧ i = .wrf 13 ∧ 2 ^ 24 - 1 < s.ibuf.length))

/-- R242: the causes of InvalidPacketState, and no others (each once the command word itself is legal, R248). -/
def Obligations.InvalidPacketStateHasTheseCauses : Prop :=
  ∀ (i : Instr) (s t : State), exec i s = .next t →
    (t.err = 2 ↔
      ((i = .encode 0 ∨ i = .stamp 0 ∨ i = .check 0) ∧ inv s.pkt = false) ∨
      (i = .stamp 0 ∧ s.lc ≠ .built) ∨ (∃ f : Byte, f.toNat ≤ 14 ∧ i = .wrf f ∧ s.lc ≠ .built) ∨
      (i = .addresp 0 ∧ ((s.lc ≠ .decoded ∧ s.lc ≠ .respPending) ∨ s.pkt.packetType ≠ 0b01#2 ∨
        2 ^ 24 - 1 < s.ibuf.length)) ∨
      (∃ c : Byte, i = .reply c ∧ (s.lc = .built ∨ s.pkt.packetType ≠ 0b01#2)))

/-- R243: the one cause of InvalidStatus (once the state allows a REPLY, R248), and OBUF is then unchanged. -/
def Obligations.InvalidStatusHasOneCause : Prop :=
  ∀ (i : Instr) (s t : State), exec i s = .next t →
    (t.err = 3 ↔ ∃ c : Byte, i = .reply c ∧ s.lc ≠ .built ∧ s.pkt.packetType = 0b01#2 ∧
      c ∉ Config.params.statusValid) ∧
    (t.err = 3 → t.obuf = s.obuf)

/-- The next command word runs normally whatever ERR and ERR_FIELD hold, and writes both afresh. Derived from R33,
R247. -/
def Obligations.ErrorsLeaveNothingBehind : Prop :=
  ∀ (i : Instr) (s : State) (e f : Byte), exec i { s with err := e, errField := f } = exec i s

/-- Who writes what, over all operations: RESULT only CRC8, DECODE, CHECK (R35); DOUT only RDF (R36); OBUF only ENCODE,
REPLY and RDF of a sequence (R52); PKT only DECODE, STAMP, NEW, WRF; RB only DECODE, ADDRESP, NEW (R27, R28); IBUF
and DIN none (R37, R51). Derived. -/
def Obligations.EachRegisterHasItsWriters : Prop :=
  ∀ (i : Instr) (s t : State), exec i s = .next t →
    t.ibuf = s.ibuf ∧ t.din = s.din ∧
    (t.result ≠ s.result → ∃ a, i = .crc8 a ∨ i = .decode a ∨ i = .check a) ∧
    (t.dout ≠ s.dout → ∃ a, i = .rdf a) ∧
    (t.obuf ≠ s.obuf → (∃ a, i = .encode a ∨ i = .reply a) ∨
      ∃ f ∈ ([0, 6, 13, 16] : List Byte), i = .rdf f) ∧
    (t.pkt ≠ s.pkt → ∃ a, i = .decode a ∨ i = .stamp a ∨ i = .new a ∨ i = .wrf a) ∧
    (t.respData ≠ s.respData → ∃ a, i = .decode a ∨ i = .addresp a ∨ i = .new a)

/-- A command word is refused exactly when it would read an IBUF, or store or write a sequence, longer than CAP (for
every parameter set), and never otherwise. Derived from R9, R59 (where the refusal stands among an operation's
checks is the model's choice, log entry 6). -/
def Obligations.RefusedExactlyBeyondCap : Prop :=
  ∀ (p : Params) (i : Instr) (s : State) (r : Refusal), execFor p i s = .refused r ↔
    r = .capExceeded ∧
    (((i = .crc8 0 ∨ i = .decode 0) ∧ p.cap < s.ibuf.length) ∨
     (i = .encode 0 ∧ inv s.pkt = true ∧ p.cap < (enc s.pkt).length) ∨
     (i = .addresp 0 ∧ (s.lc = .decoded ∨ s.lc = .respPending) ∧ s.pkt.packetType = 0b01#2 ∧
       p.cap < s.ibuf.length) ∨
     (∃ c : Byte, i = .reply c ∧ s.lc ≠ .built ∧ s.pkt.packetType = 0b01#2 ∧ c ∈ p.statusValid ∧
       p.cap < (replyBytes s.pkt s.respData c).length) ∨
     (i = .rdf 0 ∧ p.cap < s.pkt.destPathAddr.length) ∨ (i = .rdf 6 ∧ p.cap < s.pkt.srcPathAddr.length) ∨
     (i = .rdf 13 ∧ p.cap < s.pkt.data.length) ∨ (i = .rdf 16 ∧ p.cap < s.respData.length) ∨
     ((i = .wrf 0 ∨ i = .wrf 6 ∨ i = .wrf 13) ∧ s.lc = .built ∧ p.cap < s.ibuf.length))

/-- In every state of the invariant, for every parameter set: every operation answers a next state, but for an ENCODE
or a REPLY that would write an output longer than CAP. The exception bears only on an ENCODE whose lengths agree and on
a REPLY that the state and the status allow, with the very bytes it would write: an operation that only raises an error
always answers. Derived from R59, R272, R283. -/
def Obligations.EveryOperationCompletesWithinCap : Prop :=
  ∀ (p : Params) (i : Instr) (s : State), BlockInv p s →
    (i = .encode 0 → inv s.pkt = true → (enc s.pkt).length ≤ p.cap) →
    (∀ c, i = .reply c → s.lc ≠ .built → s.pkt.packetType = 0b01#2 → c ∈ p.statusValid →
      (replyBytes s.pkt s.respData c).length ≤ p.cap) →
    ∃ t, execFor p i s = .next t

/-- The reset state meets the invariant, for every parameter set. Derived from R270, R20 to R34. -/
def Obligations.ResetMeetsTheInvariant : Prop :=
  ∀ p : Params, BlockInv p State.reset

/-- The invariant of the block, kept by every step for every parameter set the spec admits: capacities (R20, R27, R32,
R59), the ERR registers' agreement (R33, R34, R246), and what LC says of PKT and RB (R30, R31, R128, R131, R190).
From every state that meets it, not only from reset. Derived. -/
def Obligations.EveryStepKeepsTheInvariant : Prop :=
  ∀ (p : Params) (s t : State), p.wf = true → BlockInv p s → stepFor p s = .next t → BlockInv p t

/-! ### Wire-level encodings -/

/-- R72: packing and unpacking the instruction byte are inverse, both ways. -/
def Obligations.InstructionByteRoundTrips : Prop :=
  (∀ (pt : BitVec 2) (cmd : BitVec 4) (sal : BitVec 2),
    packetTypeBits (pack pt cmd sal) = pt ∧ commandBits (pack pt cmd sal) = cmd ∧
    srcAddrLenBits (pack pt cmd sal) = sal ∧
    (pack pt cmd sal).toNat = pt.toNat * 64 + cmd.toNat * 4 + sal.toNat) ∧
  ∀ b : Byte, pack (packetTypeBits b) (commandBits b) (srcAddrLenBits b) = b

/-- R13: big-endian serialization has N bytes, the most significant first, and `from_be` is its inverse, both ways,
for every N. -/
def Obligations.BigEndianRoundTrips : Prop :=
  (∀ (n : Nat) (v : BitVec (8 * n)), (be n v).length = n ∧ fromBe (be n v) = v.toNat ∧
    ∀ k < n, (be n v)[k]? = some (v.extractLsb' (8 * (n - 1 - k)) 8)) ∧
  ∀ s : Bytes, fromBe s < 2 ^ (8 * s.length) ∧ be s.length (BitVec.ofNat (8 * s.length) (fromBe s)) = s
end

