-- ==== Sys2Proof/Laws/State.lean ====
section
/-! SUPPORT. One lemma per field per update of State, each true by `rfl`, so that no later proof unfolds a record
update. -/

namespace Sys2Proof.Machine

@[simp] theorem State.setPkt_pkt (s : State) (P : Packet) : (s.setPkt P).pkt = P := rfl
@[simp] theorem State.setPkt_respData (s : State) (P : Packet) : (s.setPkt P).respData = s.respData := rfl
@[simp] theorem State.setPkt_lc (s : State) (P : Packet) : (s.setPkt P).lc = s.lc := rfl
@[simp] theorem State.setPkt_ibuf (s : State) (P : Packet) : (s.setPkt P).ibuf = s.ibuf := rfl
@[simp] theorem State.setPkt_obuf (s : State) (P : Packet) : (s.setPkt P).obuf = s.obuf := rfl
@[simp] theorem State.setPkt_din (s : State) (P : Packet) : (s.setPkt P).din = s.din := rfl
@[simp] theorem State.setPkt_dout (s : State) (P : Packet) : (s.setPkt P).dout = s.dout := rfl
@[simp] theorem State.setPkt_result (s : State) (P : Packet) : (s.setPkt P).result = s.result := rfl
@[simp] theorem State.setPkt_err (s : State) (P : Packet) : (s.setPkt P).err = s.err := rfl
@[simp] theorem State.setPkt_errField (s : State) (P : Packet) : (s.setPkt P).errField = s.errField := rfl
@[simp] theorem State.setPkt_pending (s : State) (P : Packet) : (s.setPkt P).pending = s.pending := rfl

@[simp] theorem State.setRespData_pkt (s : State) (b : Bytes) : (s.setRespData b).pkt = s.pkt := rfl
@[simp] theorem State.setRespData_respData (s : State) (b : Bytes) : (s.setRespData b).respData = b := rfl
@[simp] theorem State.setRespData_lc (s : State) (b : Bytes) : (s.setRespData b).lc = s.lc := rfl
@[simp] theorem State.setRespData_ibuf (s : State) (b : Bytes) : (s.setRespData b).ibuf = s.ibuf := rfl
@[simp] theorem State.setRespData_obuf (s : State) (b : Bytes) : (s.setRespData b).obuf = s.obuf := rfl
@[simp] theorem State.setRespData_din (s : State) (b : Bytes) : (s.setRespData b).din = s.din := rfl
@[simp] theorem State.setRespData_dout (s : State) (b : Bytes) : (s.setRespData b).dout = s.dout := rfl
@[simp] theorem State.setRespData_result (s : State) (b : Bytes) : (s.setRespData b).result = s.result := rfl
@[simp] theorem State.setRespData_err (s : State) (b : Bytes) : (s.setRespData b).err = s.err := rfl
@[simp] theorem State.setRespData_errField (s : State) (b : Bytes) : (s.setRespData b).errField = s.errField := rfl
@[simp] theorem State.setRespData_pending (s : State) (b : Bytes) : (s.setRespData b).pending = s.pending := rfl

@[simp] theorem State.setLc_pkt (s : State) (l : Lifecycle) : (s.setLc l).pkt = s.pkt := rfl
@[simp] theorem State.setLc_respData (s : State) (l : Lifecycle) : (s.setLc l).respData = s.respData := rfl
@[simp] theorem State.setLc_lc (s : State) (l : Lifecycle) : (s.setLc l).lc = l := rfl
@[simp] theorem State.setLc_ibuf (s : State) (l : Lifecycle) : (s.setLc l).ibuf = s.ibuf := rfl
@[simp] theorem State.setLc_obuf (s : State) (l : Lifecycle) : (s.setLc l).obuf = s.obuf := rfl
@[simp] theorem State.setLc_din (s : State) (l : Lifecycle) : (s.setLc l).din = s.din := rfl
@[simp] theorem State.setLc_dout (s : State) (l : Lifecycle) : (s.setLc l).dout = s.dout := rfl
@[simp] theorem State.setLc_result (s : State) (l : Lifecycle) : (s.setLc l).result = s.result := rfl
@[simp] theorem State.setLc_err (s : State) (l : Lifecycle) : (s.setLc l).err = s.err := rfl
@[simp] theorem State.setLc_errField (s : State) (l : Lifecycle) : (s.setLc l).errField = s.errField := rfl
@[simp] theorem State.setLc_pending (s : State) (l : Lifecycle) : (s.setLc l).pending = s.pending := rfl

@[simp] theorem State.setIbuf_pkt (s : State) (b : Bytes) : (s.setIbuf b).pkt = s.pkt := rfl
@[simp] theorem State.setIbuf_respData (s : State) (b : Bytes) : (s.setIbuf b).respData = s.respData := rfl
@[simp] theorem State.setIbuf_lc (s : State) (b : Bytes) : (s.setIbuf b).lc = s.lc := rfl
@[simp] theorem State.setIbuf_ibuf (s : State) (b : Bytes) : (s.setIbuf b).ibuf = b := rfl
@[simp] theorem State.setIbuf_obuf (s : State) (b : Bytes) : (s.setIbuf b).obuf = s.obuf := rfl
@[simp] theorem State.setIbuf_din (s : State) (b : Bytes) : (s.setIbuf b).din = s.din := rfl
@[simp] theorem State.setIbuf_dout (s : State) (b : Bytes) : (s.setIbuf b).dout = s.dout := rfl
@[simp] theorem State.setIbuf_result (s : State) (b : Bytes) : (s.setIbuf b).result = s.result := rfl
@[simp] theorem State.setIbuf_err (s : State) (b : Bytes) : (s.setIbuf b).err = s.err := rfl
@[simp] theorem State.setIbuf_errField (s : State) (b : Bytes) : (s.setIbuf b).errField = s.errField := rfl
@[simp] theorem State.setIbuf_pending (s : State) (b : Bytes) : (s.setIbuf b).pending = s.pending := rfl

@[simp] theorem State.setObuf_pkt (s : State) (b : Bytes) : (s.setObuf b).pkt = s.pkt := rfl
@[simp] theorem State.setObuf_respData (s : State) (b : Bytes) : (s.setObuf b).respData = s.respData := rfl
@[simp] theorem State.setObuf_lc (s : State) (b : Bytes) : (s.setObuf b).lc = s.lc := rfl
@[simp] theorem State.setObuf_ibuf (s : State) (b : Bytes) : (s.setObuf b).ibuf = s.ibuf := rfl
@[simp] theorem State.setObuf_obuf (s : State) (b : Bytes) : (s.setObuf b).obuf = b := rfl
@[simp] theorem State.setObuf_din (s : State) (b : Bytes) : (s.setObuf b).din = s.din := rfl
@[simp] theorem State.setObuf_dout (s : State) (b : Bytes) : (s.setObuf b).dout = s.dout := rfl
@[simp] theorem State.setObuf_result (s : State) (b : Bytes) : (s.setObuf b).result = s.result := rfl
@[simp] theorem State.setObuf_err (s : State) (b : Bytes) : (s.setObuf b).err = s.err := rfl
@[simp] theorem State.setObuf_errField (s : State) (b : Bytes) : (s.setObuf b).errField = s.errField := rfl
@[simp] theorem State.setObuf_pending (s : State) (b : Bytes) : (s.setObuf b).pending = s.pending := rfl

@[simp] theorem State.setDin_pkt (s : State) (v : Word) : (s.setDin v).pkt = s.pkt := rfl
@[simp] theorem State.setDin_respData (s : State) (v : Word) : (s.setDin v).respData = s.respData := rfl
@[simp] theorem State.setDin_lc (s : State) (v : Word) : (s.setDin v).lc = s.lc := rfl
@[simp] theorem State.setDin_ibuf (s : State) (v : Word) : (s.setDin v).ibuf = s.ibuf := rfl
@[simp] theorem State.setDin_obuf (s : State) (v : Word) : (s.setDin v).obuf = s.obuf := rfl
@[simp] theorem State.setDin_din (s : State) (v : Word) : (s.setDin v).din = v := rfl
@[simp] theorem State.setDin_dout (s : State) (v : Word) : (s.setDin v).dout = s.dout := rfl
@[simp] theorem State.setDin_result (s : State) (v : Word) : (s.setDin v).result = s.result := rfl
@[simp] theorem State.setDin_err (s : State) (v : Word) : (s.setDin v).err = s.err := rfl
@[simp] theorem State.setDin_errField (s : State) (v : Word) : (s.setDin v).errField = s.errField := rfl
@[simp] theorem State.setDin_pending (s : State) (v : Word) : (s.setDin v).pending = s.pending := rfl

@[simp] theorem State.setDout_pkt (s : State) (v : Word) : (s.setDout v).pkt = s.pkt := rfl
@[simp] theorem State.setDout_respData (s : State) (v : Word) : (s.setDout v).respData = s.respData := rfl
@[simp] theorem State.setDout_lc (s : State) (v : Word) : (s.setDout v).lc = s.lc := rfl
@[simp] theorem State.setDout_ibuf (s : State) (v : Word) : (s.setDout v).ibuf = s.ibuf := rfl
@[simp] theorem State.setDout_obuf (s : State) (v : Word) : (s.setDout v).obuf = s.obuf := rfl
@[simp] theorem State.setDout_din (s : State) (v : Word) : (s.setDout v).din = s.din := rfl
@[simp] theorem State.setDout_dout (s : State) (v : Word) : (s.setDout v).dout = v := rfl
@[simp] theorem State.setDout_result (s : State) (v : Word) : (s.setDout v).result = s.result := rfl
@[simp] theorem State.setDout_err (s : State) (v : Word) : (s.setDout v).err = s.err := rfl
@[simp] theorem State.setDout_errField (s : State) (v : Word) : (s.setDout v).errField = s.errField := rfl
@[simp] theorem State.setDout_pending (s : State) (v : Word) : (s.setDout v).pending = s.pending := rfl

@[simp] theorem State.setResult_pkt (s : State) (v : Word) : (s.setResult v).pkt = s.pkt := rfl
@[simp] theorem State.setResult_respData (s : State) (v : Word) : (s.setResult v).respData = s.respData := rfl
@[simp] theorem State.setResult_lc (s : State) (v : Word) : (s.setResult v).lc = s.lc := rfl
@[simp] theorem State.setResult_ibuf (s : State) (v : Word) : (s.setResult v).ibuf = s.ibuf := rfl
@[simp] theorem State.setResult_obuf (s : State) (v : Word) : (s.setResult v).obuf = s.obuf := rfl
@[simp] theorem State.setResult_din (s : State) (v : Word) : (s.setResult v).din = s.din := rfl
@[simp] theorem State.setResult_dout (s : State) (v : Word) : (s.setResult v).dout = s.dout := rfl
@[simp] theorem State.setResult_result (s : State) (v : Word) : (s.setResult v).result = v := rfl
@[simp] theorem State.setResult_err (s : State) (v : Word) : (s.setResult v).err = s.err := rfl
@[simp] theorem State.setResult_errField (s : State) (v : Word) : (s.setResult v).errField = s.errField := rfl
@[simp] theorem State.setResult_pending (s : State) (v : Word) : (s.setResult v).pending = s.pending := rfl

@[simp] theorem State.setErr_pkt (s : State) (c i : Byte) : (s.setErr c i).pkt = s.pkt := rfl
@[simp] theorem State.setErr_respData (s : State) (c i : Byte) : (s.setErr c i).respData = s.respData := rfl
@[simp] theorem State.setErr_lc (s : State) (c i : Byte) : (s.setErr c i).lc = s.lc := rfl
@[simp] theorem State.setErr_ibuf (s : State) (c i : Byte) : (s.setErr c i).ibuf = s.ibuf := rfl
@[simp] theorem State.setErr_obuf (s : State) (c i : Byte) : (s.setErr c i).obuf = s.obuf := rfl
@[simp] theorem State.setErr_din (s : State) (c i : Byte) : (s.setErr c i).din = s.din := rfl
@[simp] theorem State.setErr_dout (s : State) (c i : Byte) : (s.setErr c i).dout = s.dout := rfl
@[simp] theorem State.setErr_result (s : State) (c i : Byte) : (s.setErr c i).result = s.result := rfl
@[simp] theorem State.setErr_err (s : State) (c i : Byte) : (s.setErr c i).err = c := rfl
@[simp] theorem State.setErr_errField (s : State) (c i : Byte) : (s.setErr c i).errField = i := rfl
@[simp] theorem State.setErr_pending (s : State) (c i : Byte) : (s.setErr c i).pending = s.pending := rfl

@[simp] theorem State.setPending_pkt (s : State) (l : List HostAction) : (s.setPending l).pkt = s.pkt := rfl
@[simp] theorem State.setPending_respData (s : State) (l : List HostAction) : (s.setPending l).respData = s.respData := rfl
@[simp] theorem State.setPending_lc (s : State) (l : List HostAction) : (s.setPending l).lc = s.lc := rfl
@[simp] theorem State.setPending_ibuf (s : State) (l : List HostAction) : (s.setPending l).ibuf = s.ibuf := rfl
@[simp] theorem State.setPending_obuf (s : State) (l : List HostAction) : (s.setPending l).obuf = s.obuf := rfl
@[simp] theorem State.setPending_din (s : State) (l : List HostAction) : (s.setPending l).din = s.din := rfl
@[simp] theorem State.setPending_dout (s : State) (l : List HostAction) : (s.setPending l).dout = s.dout := rfl
@[simp] theorem State.setPending_result (s : State) (l : List HostAction) : (s.setPending l).result = s.result := rfl
@[simp] theorem State.setPending_err (s : State) (l : List HostAction) : (s.setPending l).err = s.err := rfl
@[simp] theorem State.setPending_errField (s : State) (l : List HostAction) : (s.setPending l).errField = s.errField := rfl
@[simp] theorem State.setPending_pending (s : State) (l : List HostAction) : (s.setPending l).pending = l := rfl

end Sys2Proof.Machine
end

