-- ==== Sys2Proof/Laws/Ops.lean ====
section
/-! SUPPORT. What each shared operation of `Machine/Ops.lean` can do, said once: its equations under each condition,
and an inversion lemma for a `next` answer. -/

namespace Sys2Proof.Machine

@[simp] theorem complete_eq_next {s t : State} : complete s = .next t ↔ t = s.setErr 0#8 0xFF#8 := by
  simp [complete, errOk, noField, eq_comm]

@[simp] theorem complete_ne_refused {s : State} {r : Refusal} : complete s ≠ .refused r := by
  simp [complete]

@[simp] theorem raise_eq_next {e : ErrKind} {s t : State} :
    raise e s = .next t ↔ t = s.setErr (errCode e) (errInfo e) := by
  simp [raise, eq_comm]

@[simp] theorem errCode_state : errCode .invalidPacketState = 2#8 := rfl
@[simp] theorem errCode_status : errCode .invalidStatus = 3#8 := rfl
@[simp] theorem errCode_illegal : errCode .illegalOperation = 4#8 := rfl
@[simp] theorem errCode_malformed (f : Field) : errCode (.malformedPacket f) = 1#8 := rfl
@[simp] theorem errCode_ne_zero (e : ErrKind) : errCode e ≠ 0#8 := by cases e <;> simp
@[simp] theorem errInfo_state : errInfo .invalidPacketState = 0xFF#8 := rfl
@[simp] theorem errInfo_status : errInfo .invalidStatus = 0xFF#8 := rfl
@[simp] theorem errInfo_illegal : errInfo .illegalOperation = 0xFF#8 := rfl
@[simp] theorem errInfo_malformed (f : Field) : errInfo (.malformedPacket f) = fieldId f := rfl

@[simp] theorem raise_ne_refused {e : ErrKind} {s : State} {r : Refusal} : raise e s ≠ .refused r := by
  simp [raise]

@[simp] theorem withNoArg_zero (s : State) (k : Answer) : withNoArg 0#8 s k = k := by simp [withNoArg]

theorem withNoArg_ne {arg : Byte} (h : arg ≠ 0#8) (s : State) (k : Answer) :
    withNoArg arg s k = raise .illegalOperation s := by simp [withNoArg, h]

theorem withNoArg_eq_next {arg : Byte} {s t : State} {k : Answer} :
    withNoArg arg s k = .next t ↔
      (arg = 0#8 ∧ k = .next t) ∨ (arg ≠ 0#8 ∧ t = s.setErr 4#8 0xFF#8) := by
  by_cases h : arg = 0#8 <;> simp [withNoArg, h]

theorem withNoArg_eq_refused {arg : Byte} {s : State} {k : Answer} {r : Refusal} :
    withNoArg arg s k = .refused r ↔ arg = 0#8 ∧ k = .refused r := by
  by_cases h : arg = 0#8 <;> simp [withNoArg, h]

theorem withIbuf_le {p : Params} {s : State} (h : s.ibuf.length ≤ p.cap) (k : Bytes → Answer) :
    withIbuf p s k = k s.ibuf := by simp [withIbuf, h]

theorem withIbuf_eq_next {p : Params} {s t : State} {k : Bytes → Answer} :
    withIbuf p s k = .next t ↔ s.ibuf.length ≤ p.cap ∧ k s.ibuf = .next t := by
  by_cases h : s.ibuf.length ≤ p.cap <;> simp [withIbuf, h]

theorem withIbuf_eq_refused {p : Params} {s : State} {k : Bytes → Answer} {r : Refusal} :
    withIbuf p s k = .refused r ↔
      (p.cap < s.ibuf.length ∧ r = .capExceeded) ∨ (s.ibuf.length ≤ p.cap ∧ k s.ibuf = .refused r) := by
  by_cases h : s.ibuf.length ≤ p.cap
  · simp [withIbuf, h]
  · simp [withIbuf, h, eq_comm, Nat.lt_of_not_le h]

theorem writeObuf_le {p : Params} {out : Bytes} (h : out.length ≤ p.cap) (s : State) :
    writeObuf p out s = complete (s.setObuf out) := by simp [writeObuf, h]

theorem writeObuf_eq_next {p : Params} {out : Bytes} {s t : State} :
    writeObuf p out s = .next t ↔ out.length ≤ p.cap ∧ t = (s.setObuf out).setErr 0#8 0xFF#8 := by
  by_cases h : out.length ≤ p.cap <;> simp [writeObuf, h]

theorem writeObuf_eq_refused {p : Params} {out : Bytes} {s : State} {r : Refusal} :
    writeObuf p out s = .refused r ↔ p.cap < out.length ∧ r = .capExceeded := by
  by_cases h : out.length ≤ p.cap
  · simp [writeObuf, h]
  · simp [writeObuf, h, eq_comm, Nat.lt_of_not_le h]

/-- Every write of OBUF leaves it in the canonical form of a buffer. -/
theorem writeObuf_keeps_wf {p : Params} {out : Bytes} {s t : State} (h : writeObuf p out s = .next t) :
    Memory.wf p t.obuf = true := by
  obtain ⟨hle, rfl⟩ := writeObuf_eq_next.1 h
  exact decide_eq_true hle

/-- The reset buffers are in canonical form. -/
theorem reset_memory_wf (p : Params) :
    Memory.wf p State.reset.ibuf = true ∧ Memory.wf p State.reset.obuf = true := by
  simp [Memory.wf, State.reset]

end Sys2Proof.Machine
end

