-- ==== Sys2Proof/Laws/Wire.lean ====
section
/-! SUPPORT. Lengths and small facts of the wire-level functions and of the field tables. -/

namespace Sys2Proof.Machine

@[simp] theorem length_be (n : Nat) {w : Nat} (v : BitVec w) : (be n v).length = n := by simp [be]

theorem be_two (v : BitVec 16) : be 2 v = [v.extractLsb' 8 8, v.extractLsb' 0 8] := rfl

theorem be_three (v : BitVec 24) : be 3 v = [v.extractLsb' 16 8, v.extractLsb' 8 8, v.extractLsb' 0 8] := rfl

theorem be_four (v : BitVec 32) :
    be 4 v = [v.extractLsb' 24 8, v.extractLsb' 16 8, v.extractLsb' 8 8, v.extractLsb' 0 8] := rfl

@[simp] theorem fromBe_nil : fromBe [] = 0 := rfl

theorem fromBe_concat (s : Bytes) (b : Byte) : fromBe (s ++ [b]) = fromBe s * 256 + b.toNat := by
  simp [fromBe]

theorem inv_iff {P : Packet} :
    inv P = true ↔ P.srcAddrLen.toNat = P.srcPathAddr.length ∧ P.dataLen.toNat = P.data.length := by
  simp [inv]

theorem length_hdr (P : Packet) : (hdr P).length = 15 + P.srcPathAddr.length := by
  simp [hdr]; omega

theorem length_enc (P : Packet) :
    (enc P).length = P.destPathAddr.length + P.srcPathAddr.length + P.data.length + 17 := by
  simp [enc, length_hdr]; omega

theorem scalarWidth_le (f : ScalarField) : scalarWidth f ≤ 32 := by cases f <;> decide

theorem fieldOfId_fieldId (f : Field) : fieldOfId (fieldId f) = some f := by
  cases f with
  | scalar f => cases f <;> rfl
  | seq f => cases f <;> rfl
  | protocolId => rfl
  | respData => rfl
  | instruction => rfl

theorem fieldId_of_fieldOfId {fid : Byte} {f : Field} (h : fieldOfId fid = some f) : fieldId f = fid := by
  unfold fieldOfId at h
  split at h <;> simp at h
  all_goals
    rename_i e
    subst h
    exact BitVec.eq_of_toNat_eq (by rw [e]; rfl)

/-- Two field ids never name one field. -/
theorem fieldOfId_inj {a b : Byte} {f : Field} (ha : fieldOfId a = some f) (hb : fieldOfId b = some f) : a = b := by
  rw [← fieldId_of_fieldOfId ha, fieldId_of_fieldOfId hb]

/-- A scalar that fits is stored whole. -/
theorem getScalar_setScalar {f : ScalarField} {v : Word} (h : scalarFits f v = true) (P : Packet) :
    getScalar (setScalar P f v) f = v := by
  have h' : v.toNat < 2 ^ scalarWidth f := by simpa [scalarFits] using h
  cases f <;> simp [getScalar, setScalar] <;> apply BitVec.eq_of_toNat_eq <;>
    simp [scalarWidth] at h' ⊢ <;> omega

/-- Writing one scalar leaves the other scalars. -/
theorem getScalar_setScalar_ne {f g : ScalarField} (h : g ≠ f) (P : Packet) (v : Word) :
    getScalar (setScalar P f v) g = getScalar P g := by
  cases f <;> cases g <;> first | rfl | exact absurd rfl h

@[simp] theorem getSeq_setScalar (P : Packet) (f : ScalarField) (g : SeqField) (v : Word) :
    getSeq (setScalar P f v) g = getSeq P g := by
  cases f <;> cases g <;> rfl

@[simp] theorem getSeq_setSeq (P : Packet) (f : SeqField) (b : Bytes) : getSeq (setSeq P f b) f = b := by
  cases f <;> rfl

theorem getSeq_setSeq_ne {f g : SeqField} (h : g ≠ f) (P : Packet) (b : Bytes) :
    getSeq (setSeq P f b) g = getSeq P g := by
  cases f <;> cases g <;> first | rfl | exact absurd rfl h

@[simp] theorem getScalar_setSeq (P : Packet) (f : SeqField) (g : ScalarField) (b : Bytes) :
    getScalar (setSeq P f b) g = getScalar P g := by
  cases f <;> cases g <;> rfl

end Sys2Proof.Machine
end

