-- ==== Sys2Proof/Laws/Exec.lean ====
section
/-! SUPPORT. One inversion lemma per meaning: if it answers a next state, then one of these cases holds. Later proofs
cite these and do not unfold the meanings. -/

namespace Sys2Proof.Machine

variable {p : Params} {arg : Byte} {s t : State}

/-- A state after a failed operation: ERR and ERR_FIELD only. -/
abbrev failed (s : State) (code : Byte) : State := s.setErr code 0xFF#8

/-- A state after the commit of the writes in `s`. -/
abbrev done (s : State) : State := s.setErr 0#8 0xFF#8

theorem crc8Op_next : crc8Op p arg s = .next t ↔
    (arg ≠ 0#8 ∧ t = failed s 4) ∨
    (arg = 0#8 ∧ s.ibuf.length ≤ p.cap ∧ t = done (s.setResult ((crc8 s.ibuf).setWidth 32))) := by
  simp only [crc8Op, withNoArg_eq_next, withIbuf_eq_next, complete_eq_next]
  tauto

theorem decodeOp_next : decodeOp p arg s = .next t ↔
    (arg ≠ 0#8 ∧ t = failed s 4) ∨
    (arg = 0#8 ∧ s.ibuf.length ≤ p.cap ∧
      ((∃ e, parseCommand p.logicalAddrMin s.ibuf = .error e ∧ t = s.setErr (errCode e) (errInfo e)) ∨
       ∃ P rest, parseCommand p.logicalAddrMin s.ibuf = .ok (P, rest) ∧
         t = done (decodeCommit s P (s.ibuf.length - rest.length)))) := by
  simp only [decodeOp, withNoArg_eq_next, withIbuf_eq_next]
  rcases h : parseCommand p.logicalAddrMin s.ibuf with e | ⟨P, rest⟩ <;>
    simp <;> tauto

theorem encodeOp_next : encodeOp p arg s = .next t ↔
    (arg ≠ 0#8 ∧ t = failed s 4) ∨ (arg = 0#8 ∧ inv s.pkt = false ∧ t = failed s 2) ∨
    (arg = 0#8 ∧ inv s.pkt = true ∧ (enc s.pkt).length ≤ p.cap ∧ t = done (s.setObuf (enc s.pkt))) := by
  simp only [encodeOp, withNoArg_eq_next]
  rcases h : inv s.pkt <;> simp [writeObuf_eq_next] <;> tauto

theorem execStamp_next : execStamp arg s = .next t ↔
    (arg ≠ 0#8 ∧ t = failed s 4) ∨ (arg = 0#8 ∧ (s.lc ≠ .built ∨ inv s.pkt = false) ∧ t = failed s 2) ∨
    (arg = 0#8 ∧ s.lc = .built ∧ inv s.pkt = true ∧ t = done (s.setPkt (stamped s.pkt))) := by
  simp only [execStamp, withNoArg_eq_next]
  rcases h : inv s.pkt <;> by_cases hl : s.lc = .built <;>
    simp [hl] <;> tauto

theorem execCheck_next : execCheck arg s = .next t ↔
    (arg ≠ 0#8 ∧ t = failed s 4) ∨ (arg = 0#8 ∧ inv s.pkt = false ∧ t = failed s 2) ∨
    (arg = 0#8 ∧ inv s.pkt = true ∧
      t = done (s.setResult (checkFlags (headerCrcOk s.pkt) (dataCrcOk s.pkt)))) := by
  simp only [execCheck, withNoArg_eq_next]
  rcases h : inv s.pkt <;> simp <;> tauto

theorem addrespOp_next : addrespOp p arg s = .next t ↔
    (arg ≠ 0#8 ∧ t = failed s 4) ∨
    (arg = 0#8 ∧ ((s.lc ≠ .decoded ∧ s.lc ≠ .respPending) ∨ s.pkt.packetType ≠ ptCommand ∨
      (s.ibuf.length ≤ p.cap ∧ maxDataLen < s.ibuf.length)) ∧ t = failed s 2) ∨
    (arg = 0#8 ∧ (s.lc = .decoded ∨ s.lc = .respPending) ∧ s.pkt.packetType = ptCommand ∧
      s.ibuf.length ≤ p.cap ∧ s.ibuf.length ≤ maxDataLen ∧
      t = done ((s.setRespData s.ibuf).setLc .respPending)) := by
  simp only [addrespOp, withNoArg_eq_next]
  split_ifs with h1 h2
  · have h1' : ¬ (s.lc = .decoded ∨ s.lc = .respPending) := by tauto
    simp [h1]; tauto
  · have h1' : s.lc = .decoded ∨ s.lc = .respPending := by tauto
    simp [h1, h1', h2]; tauto
  · have h1' : s.lc = .decoded ∨ s.lc = .respPending := by tauto
    have h2' : s.pkt.packetType = ptCommand := by tauto
    by_cases h3 : maxDataLen < s.ibuf.length
    · have h3' : ¬ s.ibuf.length ≤ maxDataLen := by omega
      simp [withIbuf_eq_next, h1, h1', h2', h3, h3']; tauto
    · have h3' : s.ibuf.length ≤ maxDataLen := by omega
      simp [withIbuf_eq_next, h1, h1', h2', h3, h3']; tauto

theorem replyOp_next : replyOp p arg s = .next t ↔
    ((s.lc = .built ∨ s.pkt.packetType ≠ ptCommand) ∧ t = failed s 2) ∨
    (s.lc ≠ .built ∧ s.pkt.packetType = ptCommand ∧ arg ∉ p.statusValid ∧ t = failed s 3) ∨
    (s.lc ≠ .built ∧ s.pkt.packetType = ptCommand ∧ arg ∈ p.statusValid ∧
      (replyBytes s.pkt s.respData arg).length ≤ p.cap ∧
      t = done ((s.setLc .replied).setObuf (replyBytes s.pkt s.respData arg))) := by
  by_cases h1 : s.lc = .built
  · simp [replyOp, h1]
  · by_cases h2 : s.pkt.packetType = ptCommand
    · by_cases h3 : arg ∈ p.statusValid <;> simp [replyOp, writeObuf_eq_next, h1, h2, h3]
    · simp [replyOp, h1, h2]

theorem execNew_next : execNew arg s = .next t ↔
    (arg ≠ 0#8 ∧ t = failed s 4) ∨
    (arg = 0#8 ∧ t = done (((s.setPkt Packet.empty).setRespData []).setLc .built)) := by
  simp only [execNew, withNoArg_eq_next, complete_eq_next]
  tauto

theorem rdfOp_next : rdfOp p arg s = .next t ↔
    (fieldOfId arg = none ∧ t = failed s 4) ∨
    (∃ f v, fieldOfId arg = some f ∧ readField s f = .scalar v ∧ t = done (s.setDout v)) ∨
    (∃ f b, fieldOfId arg = some f ∧ readField s f = .seq b ∧ b.length ≤ p.cap ∧
      t = done ((s.setDout (BitVec.ofNat 32 b.length)).setObuf b)) := by
  unfold rdfOp
  rcases h : fieldOfId arg with _ | f
  · simp
  · rcases h2 : readField s f with v | b <;>
      simp [h2, writeObuf_eq_next]

/-- The field ids WRF may write (R88): those that name a scalar or a sequence of PKT. -/
abbrev Writable (f : Field) : Prop := (∃ x, f = .scalar x) ∨ ∃ q, f = .seq q

theorem wrfOp_next : wrfOp p arg s = .next t ↔
    ((∀ f, fieldOfId arg = some f → ¬ Writable f) ∧ t = failed s 4) ∨
    ((∃ f, fieldOfId arg = some f ∧ Writable f) ∧ s.lc ≠ .built ∧ t = failed s 2) ∨
    (s.lc = .built ∧ ∃ x, fieldOfId arg = some (.scalar x) ∧
      ((scalarFits x s.din = false ∧ t = failed s 4) ∨
       (scalarFits x s.din = true ∧ t = done (s.setPkt (setScalar s.pkt x s.din))))) ∨
    (s.lc = .built ∧ ∃ q, fieldOfId arg = some (.seq q) ∧ s.ibuf.length ≤ p.cap ∧
      ((seqFits q s.ibuf = false ∧ t = failed s 4) ∨
       (seqFits q s.ibuf = true ∧ t = done (s.setPkt (setSeq s.pkt q s.ibuf))))) := by
  unfold wrfOp
  rcases h : fieldOfId arg with _ | ⟨x⟩ | ⟨q⟩ | _ | _ | _
  · simp
  · by_cases hl : s.lc = .built
    · rcases hf : scalarFits x s.din <;>
        simp [hl, wrfScalar, hf, Writable]
    · simp [hl, Writable]
  · by_cases hl : s.lc = .built
    · rcases hf : seqFits q s.ibuf <;>
        simp [hl, wrfSeq, withIbuf_eq_next, hf, Writable]
    · simp [hl, Writable]
  · simp [Writable]
  · simp [Writable]
  · simp [Writable]

end Sys2Proof.Machine
end

