-- ==== Sys2Proof/Laws/Layout.lean ====
section
/-! SUPPORT. Small facts of the notions the claims use: the command layout, the ids MalformedPacket may name, the
field ids that name no field, and the fields of a command word. -/

namespace Sys2Proof.Machine

/-- With protocol id 0x01 the layout is ENCODE's output. -/
theorem commandLayout_one (P : Packet) : commandLayout 0x01 P = enc P := by
  have h : ∀ (a : BitVec 2) (b : BitVec 4) (c : BitVec 2), a ++ b ++ c = pack a b c := by decide +kernel
  simp [commandLayout, enc, hdr, be_two, be_three, be_four, h, protocolIdConst]

theorem length_commandLayout (pid : Byte) (P : Packet) : (commandLayout pid P).length =
    P.destPathAddr.length + P.srcPathAddr.length + P.data.length + 17 := by
  simp only [commandLayout, List.length_append, List.length_cons, List.length_nil]
  omega

theorem ite_mem_malformedIds {c : Prop} [Decidable c] {a b : Byte} (ha : a ∈ malformedIds)
    (hb : b ∈ malformedIds) : (if c then a else b) ∈ malformedIds := by
  split <;> assumption

/-- Whatever byte a packet is cut at, the field named is one of R123's. -/
theorem fieldHolding_mem (p k n j : Nat) : fieldHolding p k n j ∈ malformedIds := by
  unfold fieldHolding
  iterate 12 refine ite_mem_malformedIds (by decide) ?_
  decide

/-- Field ids above 17 name no field (R88). -/
theorem fieldOfId_eq_none {f : Byte} : fieldOfId f = none ↔ 17 < f.toNat := by
  revert f; decide

theorem opcOf_toNat (w : Half) : (opcOf w).toNat = w.toNat / 256 := by
  have := w.isLt
  simp only [opcOf, BitVec.extractLsb'_toNat, Nat.shiftRight_eq_div_pow]
  omega

/-- A host write of IBUF leaves it in the canonical form of a buffer. -/
theorem hostIbuf_keeps_wf {p : Params} {b : Bytes} {s t : State} (h : hostIbuf p b s = .next t) :
    Memory.wf p t.ibuf = true := by
  unfold hostIbuf at h
  split at h
  · cases h; exact decide_eq_true ‹_›
  · cases h

end Sys2Proof.Machine
end

