-- ==== Sys2Proof/Laws/PacketDecode.lean ====
section
/-! SUPPORT. What the cursor reads of the packet decoder answer (`spec/41_decode.md` R122 to R124). -/

namespace Sys2Proof.Machine

@[simp] theorem needByte_cons (f : Field) (b : Byte) (r : Bytes) : needByte f (b :: r) = .ok (b, r) := rfl

@[simp] theorem needByte_nil (f : Field) : needByte f [] = .error (.malformedPacket f) := rfl

theorem needByte_eq_ok {f : Field} {buf r : Bytes} {b : Byte} :
    needByte f buf = .ok (b, r) ↔ buf = b :: r := by
  cases buf <;> simp [needByte]

theorem needByte_eq_error {f : Field} {buf : Bytes} {e : ErrKind} :
    needByte f buf = .error e ↔ buf = [] ∧ e = .malformedPacket f := by
  cases buf <;> simp [needByte, eq_comm]

theorem need_append {n : Nat} {a : Bytes} (h : a.length = n) (f : Field) (r : Bytes) :
    need n f (a ++ r) = .ok (a, r) := by
  subst h; simp [need]

theorem need_short {n : Nat} {buf : Bytes} (h : buf.length < n) (f : Field) :
    need n f buf = .error (.malformedPacket f) := by simp [need, h]

theorem need_eq_ok {n : Nat} {f : Field} {buf a r : Bytes} :
    need n f buf = .ok (a, r) ↔ buf = a ++ r ∧ a.length = n := by
  unfold need
  split
  · rename_i h
    simp only [reduceCtorEq, false_iff, not_and]
    rintro rfl ha
    simp at h; omega
  · rename_i h
    simp only [Except.ok.injEq, Prod.mk.injEq]
    constructor
    · rintro ⟨rfl, rfl⟩
      exact ⟨(List.take_append_drop n buf).symm, by simp; omega⟩
    · rintro ⟨rfl, rfl⟩
      simp

theorem need_eq_error {n : Nat} {f : Field} {buf : Bytes} {e : ErrKind} :
    need n f buf = .error e ↔ buf.length < n ∧ e = .malformedPacket f := by
  unfold need; split <;> simp_all [eq_comm]

theorem scanPath_append_afterPath (lam : Byte) (buf : Bytes) : scanPath lam buf ++ afterPath lam buf = buf := by
  simp [scanPath, afterPath]

/-- The scan stops at the first byte that is not below LOGICAL_ADDR_MIN. -/
theorem scanPath_stop {lam b : Byte} {path : Bytes} (hp : ∀ x ∈ path, x < lam) (hb : ¬ b < lam) (r : Bytes) :
    scanPath lam (path ++ b :: r) = path ∧ afterPath lam (path ++ b :: r) = b :: r := by
  induction path with
  | nil => simp [scanPath, afterPath, hb]
  | cons a path ih =>
    have ha := hp a (by simp)
    have := ih fun x hx => hp x (by simp [hx])
    simp_all [scanPath, afterPath]

/-- A buffer of path bytes only leaves nothing for step 2. -/
theorem afterPath_all {lam : Byte} {path : Bytes} (hp : ∀ x ∈ path, x < lam) : afterPath lam path = [] := by
  simpa [afterPath] using hp

theorem scanPath_lt (lam : Byte) (buf : Bytes) : ∀ x ∈ scanPath lam buf, x < lam := by
  intro x hx
  simpa using List.mem_takeWhile_imp hx

theorem afterPath_head {lam b : Byte} {buf r : Bytes} (h : afterPath lam buf = b :: r) : ¬ b < lam := by
  induction buf with
  | nil => simp [afterPath] at h
  | cons a buf ih =>
    by_cases ha : a < lam
    · exact ih (by simpa [afterPath, ha] using h)
    · simp [afterPath, ha] at h
      exact h.1 ▸ ha

end Sys2Proof.Machine
end

