-- ==== Sys2Proof/Laws/PerInstr.lean ====
section
/-! SUPPORT. Facts said of every instruction, one lemma per constructor. Family `EncodeFields`: the two fields of an
instruction's command word are its operation code and its argument (`spec/30_encoding.md` R84, R90). -/

namespace Sys2Proof.Laws

/-- R84, R90: `CMD[15:8]` is the opcode of R86 and `CMD[7:0]` the argument. -/
def EncodeFields.Statement (i : Instr) : Prop :=
  opcOf (encode i) = i.opcode ∧ argOf (encode i) = i.argument

/-- The two halves of a word put together from two bytes. -/
theorem halves_of_word (o a : Byte) :
    opcOf ((o.setWidth 16 <<< 8) ||| a.setWidth 16) = o ∧ argOf ((o.setWidth 16 <<< 8) ||| a.setWidth 16) = a := by
  constructor <;> ext k hk <;> simp only [opcOf, argOf] <;> interval_cases k <;> simp

theorem EncodeFields.crc8 (arg : Byte) : Statement (.crc8 arg) := halves_of_word _ _
theorem EncodeFields.decode (arg : Byte) : Statement (.decode arg) := halves_of_word _ _
theorem EncodeFields.encode (arg : Byte) : Statement (.encode arg) := halves_of_word _ _
theorem EncodeFields.stamp (arg : Byte) : Statement (.stamp arg) := halves_of_word _ _
theorem EncodeFields.check (arg : Byte) : Statement (.check arg) := halves_of_word _ _
theorem EncodeFields.addresp (arg : Byte) : Statement (.addresp arg) := halves_of_word _ _
theorem EncodeFields.reply (status : Byte) : Statement (.reply status) := halves_of_word _ _
theorem EncodeFields.new (arg : Byte) : Statement (.new arg) := halves_of_word _ _
theorem EncodeFields.rdf (fid : Byte) : Statement (.rdf fid) := halves_of_word _ _
theorem EncodeFields.wrf (fid : Byte) : Statement (.wrf fid) := halves_of_word _ _

end Sys2Proof.Laws
end

