-- ==== Sys2Proof/Laws/Reply.lean ====
section
/-! SUPPORT. Lengths of the reply layouts (`spec/30_encoding.md` R77, R78). -/

namespace Sys2Proof.Machine

@[simp] theorem length_replyHead (C : Packet) (c : Byte) : (replyHead C c).length = 7 := by simp [replyHead]

theorem length_wreply (C : Packet) (c : Byte) : (wreply C c).length = C.srcPathAddr.length + 8 := by
  simp [wreply]

/-- The length by R78's offset table and its `rreply`; the rule's sentence "q + m + 14" is one more (log entry 15). -/
theorem length_rreply (C : Packet) (c : Byte) (d : Bytes) :
    (rreply C c d).length = C.srcPathAddr.length + d.length + 13 := by
  simp only [rreply, List.length_append, length_replyHead, length_be, List.length_cons, List.length_nil]; omega

/-- No reply is longer than prefix, data and 13 bytes. -/
theorem length_replyBytes_le (C : Packet) (d : Bytes) (c : Byte) :
    (replyBytes C d c).length ≤ C.srcPathAddr.length + d.length + 13 := by
  unfold replyBytes
  split
  · rw [length_wreply]; omega
  · rw [length_rreply]; split <;> simp

end Sys2Proof.Machine
end

