-- ==== Sys2Proof/Tests/Slice0.lean ====
section
/-! SUPPORT. The model's own tests: ill-formed command words, command words written out bit by bit, one-step tests
whose expected values are those of `spec/95_test_vectors.md` (the vector's id stands in each comment), and a witness
for the hypotheses of each statement of `Obligations.lean`, at the ends of their ranges. -/

namespace Sys2Proof.Tests

open Sys2Proof Sys2Proof.Machine

/-! ### The vectors' buffers and states -/

/-- `FIX` of `spec/95_test_vectors.md`: the source's write command. -/
def fix : Bytes := [0x20, 0x01, 0x60, 0x56, 0x21, 0x60, 0x70, 0x00, 0x80, 0x00, 0x00, 0x00, 0x00, 0x00, 0x04, 0x00,
  0xDE, 0xAD, 0xBE, 0xEF, 0x00]

/-- The packet of `FIX`, from the table of V5. -/
def fixPkt : Packet where
  destPathAddr := []
  destLogicalAddr := 0x20
  packetType := 0b01
  command := 0b1000
  srcAddrLen := 0b00
  destKey := 0x56
  srcPathAddr := []
  srcLogicalAddr := 0x21
  transactionId := 0x6070
  extendedAddr := 0x00
  memAddr := 0x80000000
  dataLen := 4
  headerCrc := 0x00
  data := [0xDE, 0xAD, 0xBE, 0xEF]
  dataCrc := 0x00

/-- `RD`: a read command with a path and a return path. -/
def rd : Bytes := [0x03, 0x30, 0x01, 0x4E, 0x00, 0x05, 0x06, 0x40, 0x12, 0x34, 0x00, 0x00, 0x00, 0x10, 0x00, 0x00,
  0x00, 0x00, 0x7D, 0x00]

/-- The packet of `RD`, from D3. -/
def rdPkt : Packet where
  destPathAddr := [0x03]
  destLogicalAddr := 0x30
  packetType := 0b01
  command := 0b0011
  srcAddrLen := 0b10
  destKey := 0x00
  srcPathAddr := [0x05, 0x06]
  srcLogicalAddr := 0x40
  transactionId := 0x1234
  extendedAddr := 0x00
  memAddr := 0x00001000
  dataLen := 0
  headerCrc := 0x7D
  data := []
  dataCrc := 0x00

/-- Reset, with IBUF loaded. -/
def withBuf (b : Bytes) : State := { State.reset with ibuf := b }

/-- Start `DF`: `FIX` decoded. -/
def df : State := { State.reset with pkt := fixPkt, lc := .decoded, ibuf := fix, result := 21 }

/-- Start `DR`: `RD` decoded. -/
def dr : State := { State.reset with pkt := rdPkt, lc := .decoded, ibuf := rd, result := 20 }

/-- Start `BF`: the fields of `FIX` in a packet under construction. -/
def bf : State := { State.reset with pkt := fixPkt, ibuf := [0xDE, 0xAD, 0xBE, 0xEF], din := 4 }

/-- `BF` with its CRCs stamped (E4). -/
def bfs : State := { bf with pkt := { fixPkt with headerCrc := 0xCB, dataCrc := 0x48 } }

/-- A next state with a property. -/
def after (a : Answer) (f : State → Bool) : Bool :=
  match a with
  | .next t => f t
  | .fault _ => false
  | .refused _ => false

theorem next_of_after {a : Answer} {f : State → Bool} (h : after a f = true) : ∃ t, a = .next t ∧ f t = true := by
  cases a with
  | next t => exact ⟨t, rfl, h⟩
  | fault r => cases h
  | refused r => cases h

/-! ### Ill-formed command words: one per check of `Instr.wf` -/

theorem test_wf_refuses_crc8_arg : (Instr.crc8 1).wf = false := by decide
theorem test_wf_refuses_decode_arg : (Instr.decode 1).wf = false := by decide
theorem test_wf_refuses_encode_arg : (Instr.encode 1).wf = false := by decide
theorem test_wf_refuses_stamp_arg : (Instr.stamp 1).wf = false := by decide
theorem test_wf_refuses_check_arg : (Instr.check 1).wf = false := by decide
theorem test_wf_refuses_addresp_arg : (Instr.addresp 1).wf = false := by decide
theorem test_wf_refuses_new_arg : (Instr.new 0x80).wf = false := by decide
theorem test_wf_refuses_rdf_18 : (Instr.rdf 18).wf = false := by decide
theorem test_wf_refuses_wrf_15 : (Instr.wrf 15).wf = false := by decide
theorem test_wf_admits_the_ends :
    (Instr.crc8 0).wf = true ∧ (Instr.reply 255).wf = true ∧ (Instr.rdf 17).wf = true ∧ (Instr.wrf 14).wf = true := by
  decide

/-! ### Command words written out from R86 and R90, one per constructor -/

theorem test_decode_crc8 : decode 0b0000000100000000 = .ok (.crc8 0x00) := by rfl
theorem test_decode_decode : decode 0b0000001000000000 = .ok (.decode 0x00) := by rfl
theorem test_decode_encode : decode 0b0000001100000000 = .ok (.encode 0x00) := by rfl
theorem test_decode_stamp : decode 0b0000010000000000 = .ok (.stamp 0x00) := by rfl
theorem test_decode_check : decode 0b0000010100000000 = .ok (.check 0x00) := by rfl
theorem test_decode_addresp : decode 0b0000011000000000 = .ok (.addresp 0x00) := by rfl
theorem test_decode_reply : decode 0b0000011100001100 = .ok (.reply 12) := by rfl
theorem test_decode_new : decode 0b0000100000000000 = .ok (.new 0x00) := by rfl
theorem test_decode_rdf : decode 0b0000100100010001 = .ok (.rdf 17) := by rfl
theorem test_decode_wrf : decode 0b0000101000001101 = .ok (.wrf 13) := by rfl
theorem test_decode_rejects : decode 0x0000 = .error (.illegalOpcode 0x00) ∧
    decode 0x0B00 = .error (.illegalOpcode 0x0B) ∧ decode 0x8000 = .error (.illegalOpcode 0x80) ∧
    decode 0xFFFF = .error (.illegalOpcode 0xFF) := ⟨rfl, rfl, rfl, rfl⟩
theorem test_decodeTableWord : decodeTableWord 16 0x0908 = some (.rdf 8) ∧ decodeTableWord 16 0x0B00 = none := by
  decide

/-! ### One step each -/

/-- C9. -/
theorem test_crc8_c9 :
    after (exec (.crc8 0) (withBuf [0x21, 0x01, 0x20, 0x00, 0x20, 0x60, 0x70])) (fun t => t.result == 0xC6) = true := by
  decide +kernel

/-- C14. -/
theorem test_crc8_c14 : after (exec (.crc8 1) (withBuf [0x01]))
    (fun t => t.result == 0 && t.err == 4 && t.errField == 0xFF) = true := by decide

/-- V5. -/
theorem test_decode_v5 : after (exec (.decode 0) (withBuf fix)) (fun t => t == df) = true := by decide

/-- D3: the path, the return path and the fields they move. -/
theorem test_decode_d3 : after (exec (.decode 0) (withBuf rd)) (fun t => t == dr) = true := by decide

/-- E1. -/
theorem test_encode_e1 : after (exec (.encode 0) State.reset) (fun t =>
    t.obuf == [0x00, 0x01, 0x00, 0x00, 0x00, 0x00, 0x00, 0x00, 0x00, 0x00, 0x00, 0x00, 0x00, 0x00, 0x00, 0x00, 0x00]) =
    true := by decide

/-- V6. -/
theorem test_encode_v6 : after (exec (.encode 0) df) (fun t => t.obuf == fix && t.lc == .decoded) = true := by
  decide

/-- E4. -/
theorem test_stamp_e4 : after (exec (.stamp 0) bf) (fun t => t == bfs) = true := by decide +kernel

/-- E13. -/
theorem test_stamp_e13 : after (exec (.stamp 0) df) (fun t => t == { df with err := 2 }) = true := by
  decide

/-- E6. -/
theorem test_check_e6 : after (exec (.check 0) bfs) (fun t => t.result == 3) = true := by decide +kernel

/-- E10: only the data CRC matches, bit 1. -/
theorem test_check_e10 : after (exec (.check 0) State.reset) (fun t => t.result == 2) = true := by decide +kernel

/-- Y1, first half. -/
theorem test_addresp_y1 : after (exec (.addresp 0) { df with ibuf := [0xF0, 0x0D, 0xCA, 0xFE] })
    (fun t => t.respData == [0xF0, 0x0D, 0xCA, 0xFE] && t.lc == .respPending && t.pkt == fixPkt) = true := by
  decide

/-- Y18: not after a REPLY. -/
theorem test_addresp_y18 : after (exec (.addresp 0) { df with lc := .replied })
    (fun t => t.err == 2 && t.lc == .replied && t.respData == []) = true := by decide

/-- Y3: a write reply with a failure status. -/
theorem test_reply_y3 : after (exec (.reply 5) df) (fun t =>
    t.obuf == [0x21, 0x01, 0x20, 0x05, 0x20, 0x60, 0x70, 0x39] && t.lc == .replied) = true := by decide +kernel

/-- Y7: a read reply with data. -/
theorem test_reply_y7 : after (exec (.reply 0) { dr with respData := [0x11, 0x22, 0x33, 0x44] }) (fun t =>
    t.obuf == [0x05, 0x06, 0x40, 0x01, 0x0C, 0x00, 0x30, 0x12, 0x34, 0x00, 0x00, 0x00, 0x04, 0x71, 0x11, 0x22, 0x33,
      0x44, 0xCA]) = true := by decide +kernel

/-- W1. -/
theorem test_new_w1 : after (exec (.new 0) df) (fun t =>
    t == { State.reset with ibuf := fix, result := 21 }) = true := by decide

/-- W2. -/
theorem test_new_w2 : after (exec (.new 1) df) (fun t => t == { df with err := 4 }) = true := by decide

/-- RDF of fids 8, 10, 17 after DF. -/
theorem test_rdf_scalars : after (exec (.rdf 8) df) (fun t => t.dout == 0x6070) = true ∧
    after (exec (.rdf 10) df) (fun t => t.dout == 0x80000000) = true ∧
    after (exec (.rdf 17) df) (fun t => t.dout == 0x60 && t.obuf == []) = true := by decide

/-- RDF of fid 13 after DF. -/
theorem test_rdf_data : after (exec (.rdf 13) df) (fun t =>
    t.obuf == [0xDE, 0xAD, 0xBE, 0xEF] && t.dout == 4) = true := by decide

/-- W5, W6. -/
theorem test_wrf_fit : after (exec (.wrf 2) { State.reset with din := 4 })
      (fun t => t.err == 4 && t.pkt.packetType == 0) = true ∧
    after (exec (.wrf 2) { State.reset with din := 3 }) (fun t => t.err == 0 && t.pkt.packetType == 3) = true := by
  decide

/-- W13, W14: the field id is checked before LC. -/
theorem test_wrf_order : after (exec (.wrf 5) df) (fun t => t == { df with err := 2 }) = true ∧
    after (exec (.wrf 15) df) (fun t => t == { df with err := 4 }) = true := by decide

/-- X1: an illegal OPC as a step. -/
theorem test_step_x1 : after (step (df.withFetchWord 16 0x0000)) (fun t => t == { df with err := 4 }) = true := by
  decide

/-- The first word after reset: `RDF PROTOCOL_ID`. -/
theorem test_step_first_word : after (step (State.reset.withFetchWord 16 0x090F)) (fun t => t.dout == 1) = true := by
  decide

/-- The corners of R72's table. -/
theorem test_pack : pack 0b01 0b0011 0b10 = 0x4E ∧ pack 0b10 0b0101 0b01 = 0x95 ∧ pack 0b11 0b1000 0b11 = 0xE3 := by
  decide

/-- R90's three examples and R91's directives. -/
theorem test_assembler : assembleLine "REPLY #0" = some (.cmd 0x0700) ∧
    assembleLine "RDF TID" = some (.cmd 0x0908) ∧ assembleLine "WRF DATA" = some (.cmd 0x0A0D) ∧
    assembleLine ".din 0x100" = some (.din 256) ∧ assembleLine ".ibuf 01 02" = some (.ibuf [1, 2]) := by decide

/-! ### Witnesses: concrete states and operands that meet each statement's hypotheses

Each name says its statement. `witness_DecodeLoads` serves ProtocolIdIsReadAndLost too (its protocol id is 0x02),
`witness_DecodeAcceptsOnly` CheckAfterDecode, `witness_Encode` EncodedBytes, `witness_RoundTrips` both round trips,
`witness_Addresp_next` ResponseData. -/

/-- A buffer of `n` zero bytes, for the ends of the length ranges. -/
def zeros (n : Nat) : Bytes := List.replicate n 0x00

theorem length_zeros (n : Nat) : (zeros n).length = n := List.length_replicate ..

/-- The host's list with one action and nothing after it. -/
def pend (s : State) (a : HostAction) : State := { s with pending := [a] }

/-- A write command with a one-byte path and a return path, at the threshold: path byte 0x1F, logical address 0x20. -/
def edgePkt : Packet := { fixPkt with destPathAddr := [0x1F], srcAddrLen := 3, srcPathAddr := [0x20, 0x00, 0xFF] }

theorem witness_StepRuns : (pend df (.cmd 0x0908)).pending = .cmd 0x0908 :: [] ∧ decode 0x0908 = .ok (.rdf 8) ∧
    ∃ t, exec (.rdf 8) df = .next t ∧ decide (t.err = 0) = true :=
  ⟨rfl, rfl, next_of_after (by decide)⟩

theorem witness_HostActions :
    (pend df (.ibuf [])).pending = .ibuf [] :: [] ∧ ([] : Bytes).length ≤ Config.params.cap ∧
    (pend df (.ibuf (zeros (2 ^ 32 - 1)))).pending = .ibuf (zeros (2 ^ 32 - 1)) :: [] ∧
    (zeros (2 ^ 32 - 1)).length ≤ Config.params.cap ∧
    (pend df (.ibuf (zeros (2 ^ 32)))).pending = .ibuf (zeros (2 ^ 32)) :: [] ∧
    Config.params.cap < (zeros (2 ^ 32)).length ∧
    (pend df (.din 0xFFFFFFFF)).pending = .din 0xFFFFFFFF :: [] ∧ (pend df .reset).pending = .reset :: [] ∧
    df.pending = [] := by
  rw [length_zeros, length_zeros]
  exact ⟨rfl, by decide, rfl, by decide, rfl, by decide, rfl, rfl, rfl⟩

theorem witness_IllegalEncodings :
    ((pend df (.cmd 0x00FF)).pending = .cmd 0x00FF :: [] ∧ (0x00FF#16).toNat / 256 < 1) ∧
    ((pend df (.cmd 0x0B00)).pending = .cmd 0x0B00 :: [] ∧ 10 < (0x0B00#16).toNat / 256) ∧
    (1 ≤ (0x0100#16).toNat / 256 ∧ (0x0100#16).toNat / 256 ≤ 10) ∧
    (1 ≤ (0x0AFF#16).toNat / 256 ∧ (0x0AFF#16).toNat / 256 ≤ 10) ∧
    ((1 : Byte) ≠ 0 ∧ Instr.new 1 ∈ [Instr.crc8 1, .decode 1, .encode 1, .stamp 1, .check 1, .addresp 1, .new 1]) ∧
    17 < (18 : Byte).toNat ∧ 14 < (15 : Byte).toNat ∧
    ((13 : Byte) ∉ Config.params.statusValid ∧ df.lc ≠ .built ∧ df.pkt.packetType = 0b01#2) := by decide

theorem witness_IllegalEncodings_reply : ∃ t, exec (.reply 13) df = .next t ∧ decide (t.err = 3) = true :=
  next_of_after (by decide)

theorem witness_CommandWordsRoundTrip : decode 0x0AFF = .ok (.wrf 255) ∧ decode 0x0100 = .ok (.crc8 0) := ⟨rfl, rfl⟩

theorem witness_CrcIsLinear : ([0x01, 0x00] : Bytes).length = ([0x00, 0x02] : Bytes).length := rfl

theorem witness_CrcOperation : (withBuf []).ibuf.length ≤ Config.params.cap ∧
    (withBuf (zeros (2 ^ 32 - 1))).ibuf.length ≤ Config.params.cap ∧ (255 : Byte) ≠ 0 := by
  refine ⟨by decide, ?_, by decide⟩
  show (zeros _).length ≤ _
  rw [length_zeros]; decide

theorem witness_Decodable : Decodable Config.params.logicalAddrMin fixPkt ∧
    Decodable Config.params.logicalAddrMin rdPkt ∧ Decodable Config.params.logicalAddrMin edgePkt := by decide

theorem witness_DecodeLoads : Decodable Config.params.logicalAddrMin edgePkt ∧
    (withBuf (commandLayout 0x02 edgePkt ++ [0xFF, 0xEE])).ibuf = commandLayout 0x02 edgePkt ++ [0xFF, 0xEE] ∧
    (withBuf (commandLayout 0x02 edgePkt ++ [0xFF, 0xEE])).ibuf.length ≤ Config.params.cap := by decide

/-- `FIX` is the layout of its packet (V5). -/
theorem test_layout_fix : fix = commandLayout 0x01 fixPkt ∧ rd = commandLayout 0x01 rdPkt := by decide

theorem witness_DecodeAcceptsOnly :
    ∃ t, exec (.decode 0) (withBuf rd) = .next t ∧ decide (t.err = 0) = true :=
  next_of_after (by decide)

theorem witness_Truncation : Decodable Config.params.logicalAddrMin fixPkt ∧
    (0 < (commandLayout 0x01 fixPkt).length ∧ (withBuf []).ibuf = (commandLayout 0x01 fixPkt).take 0) ∧
    (20 < (commandLayout 0x01 fixPkt).length ∧ (withBuf (fix.take 20)).ibuf = (commandLayout 0x01 fixPkt).take 20 ∧
      (withBuf (fix.take 20)).ibuf.length ≤ Config.params.cap) := by decide

/-- The truncation table of section 2.3, `j` from 0 to 20; and where the source path meets its neighbours (D13). -/
theorem test_fieldHolding : (List.range 21).map (fieldHolding 0 0 4) =
      [1, 15, 17, 5, 7, 8, 8, 9, 10, 10, 10, 10, 11, 11, 11, 12, 13, 13, 13, 13, 14] ∧
    [0, 1, 2, 5, 6, 7].map (fieldHolding 1 2 0) = [1, 1, 15, 6, 6, 7] := by decide

theorem witness_MalformedPacket :
    ∃ t, exec (.decode 0) (withBuf [0x20, 0x01, 0x63, 0x56, 0x21, 0x60]) = .next t ∧
      decide (t.err = 1 ∧ t.errField = 6) = true :=
  next_of_after (by decide)

theorem witness_DecodeTwice : ∃ t, exec (.decode 0) (withBuf [0x01, 0x02, 0x1F]) = .next t ∧
    decide (t.err = 1 ∧ t.errField = 1) = true :=
  next_of_after (by decide)

/-- `FIX` is a well-formed buffer (R135); with `witness_Truncation`, a cut one too. -/
theorem witness_WellFormedBuffer : WellFormedBuffer Config.params fix ∧ 20 < fix.length := by
  obtain ⟨t, h, ht⟩ := next_of_after (a := execFor Config.params (.decode 0) { State.reset with ibuf := fix })
    (f := fun t => decide (t.err = 0 ∧ t.result.toNat = fix.length ∧ fix[t.pkt.destPathAddr.length + 1]? = some 0x01))
    (by decide)
  exact ⟨⟨t, h, of_decide_eq_true ht⟩, by decide⟩

theorem witness_RoundTrips : Config.params.wf = true ∧ WellFormedBuffer Config.params fix ∧
    Decodable Config.params.logicalAddrMin bf.pkt ∧ (enc bf.pkt).length ≤ Config.params.cap :=
  ⟨by decide, witness_WellFormedBuffer.1, by decide, by decide⟩

theorem witness_Encode : (fixPkt.srcAddrLen.toNat = fixPkt.srcPathAddr.length ∧
      fixPkt.dataLen.toNat = fixPkt.data.length ∧ (enc fixPkt).length ≤ Config.params.cap ∧ inv fixPkt = true) ∧
    inv edgePkt = true ∧ inv Packet.empty = true ∧
    ({ fixPkt with srcAddrLen := 1 }.srcAddrLen.toNat ≠ fixPkt.srcPathAddr.length) ∧
    ({ fixPkt with dataLen := 5 }.dataLen.toNat ≠ fixPkt.data.length) ∧
    inv { fixPkt with dataLen := 5 } = false := by decide

theorem witness_Stamp : (bf.lc = .built ∧ inv bf.pkt = true) ∧ df.lc ≠ .built ∧
    inv { bf with pkt := { fixPkt with srcAddrLen := 1 } }.pkt = false := by decide

/-- A stamped packet, and an operation after it that keeps its CRCs right. -/
theorem witness_StampedPacket :
    (∃ t, exec (.stamp 0) bf = .next t ∧ decide (t.err = 0) = true) ∧
    exec (.check 0) bfs = .next { bfs with result := 3, err := 0, errField := 0xFF } ∧
    (∃ t, exec (.wrf 0) bfs = .next t ∧ decide (t.err = 0 ∧ t.pkt.destPathAddr = bf.ibuf) = true) := by
  refine ⟨next_of_after (by decide), ?_, next_of_after (by decide)⟩
  obtain ⟨t, h, ht⟩ := next_of_after (a := exec (.check 0) bfs)
    (f := fun t => t == { bfs with result := 3, err := 0, errField := 0xFF }) (by decide +kernel)
  rw [h, eq_of_beq ht]

theorem witness_Addresp : (df.lc = .decoded ∧ df.pkt.packetType = 0b01#2 ∧ df.ibuf.length ≤ 2 ^ 24 - 1) ∧
    ({ df with ibuf := zeros (2 ^ 24 - 1) }.ibuf.length ≤ 2 ^ 24 - 1) ∧
    ({ df with ibuf := zeros (2 ^ 24) }.ibuf.length ≤ Config.params.cap ∧
      2 ^ 24 - 1 < { df with ibuf := zeros (2 ^ 24) }.ibuf.length) ∧
    bf.lc = .built ∧ { df with pkt := { fixPkt with packetType := 0 } }.pkt.packetType ≠ 0b01#2 := by
  refine ⟨by decide, ?_, ⟨?_, ?_⟩, rfl, by decide⟩
  · show (zeros _).length ≤ _
    rw [length_zeros]
  · show (zeros _).length ≤ _
    rw [length_zeros]; decide
  · show _ < (zeros _).length
    rw [length_zeros]; decide

theorem witness_WriteReply : df.lc ≠ .built ∧ df.pkt.packetType = 0b01#2 ∧
    (0x00 : Byte) ∈ Config.params.statusValid ∧ (0x0C : Byte) ∈ Config.params.statusValid ∧
    df.pkt.command.getLsbD 3 = true ∧ df.pkt.srcPathAddr.length + 8 ≤ Config.params.cap := by decide

theorem witness_ReadReply : dr.lc ≠ .built ∧ dr.pkt.packetType = 0b01#2 ∧
    (0x0C : Byte) ∈ Config.params.statusValid ∧ dr.pkt.command.getLsbD 3 = false ∧
    dr.respData.length ≤ 2 ^ 24 - 1 ∧ dr.pkt.srcPathAddr.length + dr.respData.length + 13 ≤ Config.params.cap := by
  decide

theorem witness_StatusOutside : (13 : Byte) ∉ Config.params.statusValid ∧ (255 : Byte) ∉ Config.params.statusValid ∧
    df.lc ≠ .built ∧ bf.lc = .built ∧ { df with pkt := { fixPkt with packetType := 2 } }.pkt.packetType ≠ 0b01#2 := by
  decide

/-- Two states that differ only in DIN, and two statuses. -/
theorem witness_ReplyIsIdempotent :
    { df with din := 7 }.pkt = df.pkt ∧ { df with din := 7 }.respData = df.respData ∧
    (∃ t, exec (.reply 0) df = .next t ∧ decide (t.err = 0) = true) ∧
    (∃ t, exec (.reply 0) { df with din := 7 } = .next t ∧ decide (t.err = 0) = true) ∧
    ∃ t, exec (.reply 12) df = .next t ∧ decide (t.err = 0) = true :=
  ⟨rfl, rfl, next_of_after (by decide), next_of_after (by decide), next_of_after (by decide)⟩

theorem witness_Addresp_next : (∃ t, exec (.addresp 0) df = .next t ∧
      decide (t.err = 0 ∧ t.pkt.command.getLsbD 3 = true) = true) ∧
    ∃ t, exec (.addresp 0) dr = .next t ∧ decide (t.err = 0 ∧ t.pkt.command.getLsbD 3 = false) = true :=
  ⟨next_of_after (by decide), next_of_after (by decide)⟩

theorem witness_DecodedPacketKeeps : (df.lc ≠ .built → inv df.pkt = true) ∧
    ∃ t, step (pend df (.cmd 0x0700)) = .next t ∧ decide (t.lc ≠ .built) = true :=
  ⟨fun _ => by decide, next_of_after (by decide)⟩

theorem witness_RdfReads : df.pkt.data.length ≤ Config.params.cap ∧ (0x6070 : Word).toNat = df.pkt.transactionId.toNat ∧
    17 < (18 : Byte).toNat := by decide

theorem witness_WrfStores : bf.lc = .built ∧
    (0xFF : Word).toNat < 2 ^ 8 ∧ ¬ (0x100 : Word).toNat < 2 ^ 8 ∧ (0xFFFFFFFF : Word).toNat < 2 ^ 32 := by decide

theorem witness_WrfCopies : bf.lc = .built ∧ bf.ibuf.length ≤ Config.params.cap ∧ 3 < bf.ibuf.length ∧
    (withBuf (zeros (2 ^ 24))).ibuf.length ≤ Config.params.cap ∧ 2 ^ 24 - 1 < (withBuf (zeros (2 ^ 24))).ibuf.length := by
  refine ⟨rfl, by decide, by decide, ?_, ?_⟩
  · show (zeros _).length ≤ _
    rw [length_zeros]; decide
  · show _ < (zeros _).length
    rw [length_zeros]; decide

theorem witness_WrfIsOnly : 14 < (15 : Byte).toNat ∧ (14 : Byte).toNat ≤ 14 ∧ df.lc ≠ .built := by decide

theorem witness_WrittenField :
    (∃ t, exec (.wrf 5) { bf with din := 0xFF } = .next t ∧ decide (t.err = 0 ∧ t.pkt.destKey = 0xFF) = true) ∧
    (∃ t, exec (.wrf 13) bf = .next t ∧ decide (t.err = 0) = true) ∧
    fieldOfId 5 = some (.scalar .destKey) ∧ fieldOfId 13 = some (.seq .data) ∧
    fieldOfId 14 = some (.scalar .dataCrc) ∧ (14 : Byte) ≠ 13 ∧ Field.scalar .dataCrc ≠ .instruction :=
  ⟨next_of_after (by decide), next_of_after (by decide), by decide, by decide, by decide, by decide,
    by decide⟩

/-- RDF answers alike in two states that differ only in what RDF never shows. -/
theorem witness_RdfObserves : CapacitiesHold Config.params df ∧ CapacitiesHold Config.params { df with din := 1 } ∧
    ∀ (f : Byte) (t t' : State), exec (.rdf f) df = .next t → exec (.rdf f) { df with din := 1 } = .next t' →
      t.err = 0 → hostRead t .dout = hostRead t' .dout ∧
        (f = 0 ∨ f = 6 ∨ f = 13 ∨ f = 16 → hostRead t .obuf = hostRead t' .obuf) := by
  refine ⟨by decide, by decide, fun f t t' h h' _ => ?_⟩
  have e : exec (.rdf f) { df with din := 1 } = match exec (.rdf f) df with
      | .next u => .next { u with din := 1 }
      | .fault r => .fault r
      | .refused r => .refused r := by
    have hr : ∀ g, readField { df with din := 1 } g = readField df g := fun g => by cases g <;> rfl
    simp only [exec, execRdf, rdfOp, hr]
    cases fieldOfId f with
    | none => rfl
    | some g =>
      cases hg : readField df g with
      | scalar v => simp only [hg]; rfl
      | seq b =>
        simp only [hg, writeObuf]
        split <;> rfl
  rw [h] at e
  rw [e] at h'
  cases h'
  exact ⟨rfl, fun _ => rfl⟩

theorem witness_Lifecycle : (∃ t, exec (.addresp 0) df = .next t ∧ decide (t.err = 0) = true) ∧
    (∃ t, exec (.stamp 0) df = .next t ∧ decide (t.err ≠ 0) = true) ∧ bf.lc = .built ∧ df.lc ≠ .built ∧
    (14 : Byte).toNat ≤ 14 ∧ { df with lc := .replied }.lc = .replied ∧
    (Instr.check 0 ∈ [Instr.decode 0, .new 0, .encode 0, .check 0, .crc8 0, .rdf 0]) ∧
    ∃ t, exec (.check 0) df = .next t ∧ decide (t.err = 0) = true :=
  ⟨next_of_after (by decide), next_of_after (by decide), rfl, by decide, by decide, rfl, by decide,
    next_of_after (by decide)⟩

/-- One failing operation for each error code (MalformedPacket: `witness_MalformedPacket`). -/
theorem witness_FailedOperation : (∃ t, exec (.encode 0) { bf with pkt := { fixPkt with dataLen := 5 } } = .next t ∧
      decide (t.err = 2) = true) ∧ (∃ t, exec (.reply 13) df = .next t ∧ decide (t.err = 3) = true) ∧
    ∃ t, exec (.wrf 2) { bf with din := 4 } = .next t ∧ decide (t.err = 4) = true :=
  ⟨next_of_after (by decide), next_of_after (by decide), next_of_after (by decide)⟩

/-- States of the invariant, one for each LC, and the further conditions of ENCODE and REPLY. At a CAP of 8 a write
reply just fits, however much response data is attached, and a read reply's failure status at a CAP of 15. -/
theorem witness_EveryOperationCompletes : BlockInv Config.params bf ∧ BlockInv Config.params df ∧
    BlockInv Config.params { dr with lc := .replied } ∧
    (inv bf.pkt = true ∧ (enc bf.pkt).length ≤ Config.params.cap) ∧
    BlockInv { Config.params with cap := 8 } { df with ibuf := [], lc := .respPending, respData := [1, 2, 3] } ∧
    (df.pkt.packetType = 0b01#2 ∧ (0x00 : Byte) ∈ Config.params.statusValid ∧
      (replyBytes df.pkt [1, 2, 3] 0x00).length = 8) ∧
    BlockInv { Config.params with cap := 15 } { dr with ibuf := [], lc := .respPending, respData := [1, 2, 3] } ∧
    (replyBytes dr.pkt [1, 2, 3] 0x0C).length = 15 :=
  ⟨by decide, by decide, by decide, by decide, by decide, by decide, by decide, by decide⟩

theorem witness_EveryStepKeeps : Config.params.wf = true ∧ BlockInv Config.params (pend df (.cmd 0x0700)) ∧
    ∃ t, stepFor Config.params (pend df (.cmd 0x0700)) = .next t ∧ decide (t.lc = .replied) = true :=
  ⟨by decide, by decide, next_of_after (by decide)⟩

/-- A refused operation: OBUF would be longer than a CAP of 16 (R59). -/
theorem witness_RefusedExactly :
    (match execFor { Config.params with cap := 16 } (.encode 0) bf with
      | .refused .capExceeded => true
      | _ => false) = true := by decide

theorem witness_StoredCrcs : ∃ t, exec (.check 0) df = .next t ∧ decide (t.err = 0) = true :=
  next_of_after (by decide)

theorem witness_ReplyNeverReads : (∃ x, Instr.reply 0 = .reply x) ∧
    ∃ t, exec (.reply 0) df = .next t ∧ decide (t.err = 0) = true :=
  ⟨⟨0, rfl⟩, next_of_after (by decide)⟩

theorem witness_ErrField : (∃ t, exec (.decode 0) (withBuf []) = .next t ∧ decide (t.err = 1) = true) ∧
    ∃ t, exec (.decode 0) (withBuf fix) = .next t ∧ decide (t.err ≠ 1) = true :=
  ⟨next_of_after (by decide), next_of_after (by decide)⟩

/-- For the three statements of an error's causes: an operation with each code, and one with none. -/
theorem witness_Causes : (∃ t, exec (.wrf 6) bf = .next t ∧ decide (t.err = 4) = true) ∧
    (∃ t, exec (.addresp 0) bf = .next t ∧ decide (t.err = 2) = true) ∧
    (∃ t, exec (.reply 255) df = .next t ∧ decide (t.err = 3) = true) ∧
    ∃ t, exec (.wrf 13) bf = .next t ∧ decide (t.err = 0) = true :=
  ⟨next_of_after (by decide), next_of_after (by decide), next_of_after (by decide),
    next_of_after (by decide)⟩

theorem witness_EachRegister :
    (∃ t, exec (.crc8 0) (withBuf [0x01]) = .next t ∧ decide (t.result ≠ 0) = true) ∧
    (∃ t, exec (.rdf 13) df = .next t ∧ decide (t.dout ≠ df.dout ∧ t.obuf ≠ df.obuf) = true) ∧
    ∃ t, exec (.new 0) { df with respData := [1] } = .next t ∧ decide (t.pkt ≠ df.pkt ∧ t.respData ≠ [1]) = true :=
  ⟨next_of_after (by decide), next_of_after (by decide), next_of_after (by decide)⟩

theorem witness_BigEndian : (0 : Nat) < 3 ∧ (2 : Nat) < 3 := by decide

end Sys2Proof.Tests
end

section
/-! PROOFS. The block as a parametric machine (`spec/00_scope.md` R5, R7, R9, R13): what a step runs, which command
words are refused, which statuses are invalid, and big-endian serialization. -/

namespace Sys2Proof.Machine

/-! ### `exec` and `step` at the machine's own parameters -/

/-- Each arm of `exec` is the parametric operation at `Config.params`. -/
theorem exec_eq_execFor (i : Instr) (s : State) : exec i s = execFor Config.params i s := by
  cases i <;> rfl

theorem step_eq_stepFor (s : State) : step s = stepFor Config.params s := by
  have hrun : exec = execFor Config.params := funext₂ exec_eq_execFor
  rw [step, stepFor, hrun]

/-- Settles O8: the arms of `exec` are those of `execFor` at `Config.params`, and both steps share `hostStep`. -/
theorem execIsTheParametricMachine : Obligations.ExecIsTheParametricMachine :=
  ⟨exec_eq_execFor, step_eq_stepFor, by decide⟩

/-! ### Issuing a command word -/

theorem hostStep_cmd {p : Params} {run : Instr → State → Answer} {s : State} {w : Half} {rest : List HostAction}
    (h : s.pending = .cmd w :: rest) : hostStep p run s = issue run w (s.setPending rest) := by
  simp [hostStep, h, hostAction]

theorem issue_of_decode_ok {run : Instr → State → Answer} {w : Half} {i : Instr} (h : decode w = .ok i)
    (s : State) : issue run w s = run i s := by
  simp [issue, h]

/-- No operation reads or writes the host's list (log entry 4): by the inversion lemma of each operation. -/
theorem execFor_next_pending {p : Params} {i : Instr} {s t : State} (h : execFor p i s = .next t) :
    t.pending = s.pending := by
  cases i with
  | crc8 arg => obtain ⟨-, rfl⟩ | ⟨-, -, rfl⟩ := crc8Op_next.1 h <;> rfl
  | decode arg =>
    obtain ⟨-, rfl⟩ | ⟨-, -, ⟨e, -, rfl⟩ | ⟨P, rest, -, rfl⟩⟩ := decodeOp_next.1 h <;> rfl
  | encode arg => obtain ⟨-, rfl⟩ | ⟨-, -, rfl⟩ | ⟨-, -, -, rfl⟩ := encodeOp_next.1 h <;> rfl
  | stamp arg => obtain ⟨-, rfl⟩ | ⟨-, -, rfl⟩ | ⟨-, -, -, rfl⟩ := execStamp_next.1 h <;> rfl
  | check arg => obtain ⟨-, rfl⟩ | ⟨-, -, rfl⟩ | ⟨-, -, rfl⟩ := execCheck_next.1 h <;> rfl
  | addresp arg =>
    obtain ⟨-, rfl⟩ | ⟨-, -, rfl⟩ | ⟨-, -, -, -, -, rfl⟩ := addrespOp_next.1 h <;> rfl
  | reply status => obtain ⟨-, rfl⟩ | ⟨-, -, -, rfl⟩ | ⟨-, -, -, -, rfl⟩ := replyOp_next.1 h <;> rfl
  | new arg => obtain ⟨-, rfl⟩ | ⟨-, rfl⟩ := execNew_next.1 h <;> rfl
  | rdf fid =>
    obtain ⟨-, rfl⟩ | ⟨f, v, -, -, rfl⟩ | ⟨f, b, -, -, -, rfl⟩ := rdfOp_next.1 h <;> rfl
  | wrf fid =>
    obtain ⟨-, rfl⟩ | ⟨-, -, rfl⟩ | ⟨-, x, -, ⟨-, rfl⟩ | ⟨-, rfl⟩⟩ |
      ⟨-, q, -, -, ⟨-, rfl⟩ | ⟨-, rfl⟩⟩ := wrfOp_next.1 h <;> rfl

/-- Settles O2: `hostStep` takes the word off the list and issues it, and every operation keeps the list. -/
theorem stepRunsTheDecodedCommand : Obligations.StepRunsTheDecodedCommand := by
  refine ⟨fun s w rest i hs hw => ?_, fun i s t h => ?_⟩
  · calc step s
      _ = issue exec w (s.setPending rest) := hostStep_cmd hs
      _ = exec i (s.setPending rest) := issue_of_decode_ok hw _
  · exact execFor_next_pending (exec_eq_execFor i s ▸ h)

/-! ### The status of REPLY -/

/-- The statuses of log entry 2: the spec's default enumeration. -/
theorem mem_statusValid_iff {c : Byte} : c ∈ Config.params.statusValid ↔ c.toNat ≤ 12 := by
  revert c; decide

/-- Settles O32: the two error cases of REPLY's inversion lemma, and the machine's own enumeration. -/
theorem statusOutsideTheEnumerationIsInvalid : Obligations.StatusOutsideTheEnumerationIsInvalid := by
  refine ⟨fun p c s hlc hpt hc => ?_, fun p c s h => ?_, fun _ => mem_statusValid_iff⟩
  · exact replyOp_next.2 (.inr (.inl ⟨hlc, hpt, hc, rfl⟩))
  · exact replyOp_next.2 (.inl ⟨h, rfl⟩)

/-! ### Refusals: one inversion lemma per operation for a `refused` answer -/

section Refusals

variable {p : Params} {arg : Byte} {s : State} {r : Refusal}

theorem fieldOfId_eq_some {fid : Byte} {f : Field} : fieldOfId fid = some f ↔ fid = fieldId f :=
  ⟨fun h => (fieldId_of_fieldOfId h).symm, fun h => h ▸ fieldOfId_fieldId f⟩

/-- The fields RDF reads as a sequence (R88, R211) have the ids 0, 6, 13 and 16. -/
theorem readsSeqBeyond_iff {fid : Byte} {n : Nat} :
    (∃ f b, fieldOfId fid = some f ∧ readField s f = .seq b ∧ n < b.length) ↔
      (fid = 0#8 ∧ n < s.pkt.destPathAddr.length) ∨ (fid = 6#8 ∧ n < s.pkt.srcPathAddr.length) ∨
      (fid = 13#8 ∧ n < s.pkt.data.length) ∨ (fid = 16#8 ∧ n < s.respData.length) := by
  simp only [fieldOfId_eq_some]
  constructor
  · rintro ⟨f, b, rfl, hread, hlen⟩
    cases f with
    | seq q =>
      cases hread
      cases q
      exacts [.inl ⟨rfl, hlen⟩, .inr (.inl ⟨rfl, hlen⟩), .inr (.inr (.inl ⟨rfl, hlen⟩))]
    | respData => cases hread; exact .inr (.inr (.inr ⟨rfl, hlen⟩))
    | scalar x => cases hread
    | protocolId => cases hread
    | instruction => cases hread
  · rintro (⟨rfl, h⟩ | ⟨rfl, h⟩ | ⟨rfl, h⟩ | ⟨rfl, h⟩)
    · exact ⟨.seq .destPath, _, rfl, rfl, h⟩
    · exact ⟨.seq .srcPath, _, rfl, rfl, h⟩
    · exact ⟨.seq .data, _, rfl, rfl, h⟩
    · exact ⟨.respData, _, rfl, rfl, h⟩

/-- The sequence fields of PKT (R88) have the ids 0, 6 and 13. -/
theorem namesSeq_iff {fid : Byte} :
    (∃ q, fieldOfId fid = some (.seq q)) ↔ fid = 0#8 ∨ fid = 6#8 ∨ fid = 13#8 := by
  simp only [fieldOfId_eq_some]
  constructor
  · rintro ⟨q, rfl⟩
    cases q <;> simp [fieldId, seqId]
  · rintro (rfl | rfl | rfl)
    exacts [⟨.destPath, rfl⟩, ⟨.srcPath, rfl⟩, ⟨.data, rfl⟩]

theorem crc8Op_refused : crc8Op p arg s = .refused r ↔
    r = .capExceeded ∧ arg = 0#8 ∧ p.cap < s.ibuf.length := by
  simp only [crc8Op, withNoArg_eq_refused, withIbuf_eq_refused, complete_ne_refused]
  tauto

theorem decodeOp_refused : decodeOp p arg s = .refused r ↔
    r = .capExceeded ∧ arg = 0#8 ∧ p.cap < s.ibuf.length := by
  simp only [decodeOp, withNoArg_eq_refused, withIbuf_eq_refused]
  rcases parseCommand p.logicalAddrMin s.ibuf with e | ⟨P, rest⟩ <;> simp <;> tauto

theorem encodeOp_refused : encodeOp p arg s = .refused r ↔
    r = .capExceeded ∧ arg = 0#8 ∧ inv s.pkt = true ∧ p.cap < (enc s.pkt).length := by
  simp only [encodeOp, withNoArg_eq_refused]
  split_ifs with hinv <;> simp [hinv, writeObuf_eq_refused]
  tauto

theorem execStamp_ne_refused : execStamp arg s ≠ .refused r := by
  simp only [execStamp, ne_eq, withNoArg_eq_refused]
  split_ifs <;> simp

theorem execCheck_ne_refused : execCheck arg s ≠ .refused r := by
  simp only [execCheck, ne_eq, withNoArg_eq_refused]
  split_ifs <;> simp

theorem addrespOp_refused : addrespOp p arg s = .refused r ↔
    r = .capExceeded ∧ arg = 0#8 ∧ (s.lc = .decoded ∨ s.lc = .respPending) ∧ s.pkt.packetType = ptCommand ∧
      p.cap < s.ibuf.length := by
  have hread : (if s.ibuf.length > maxDataLen then raise .invalidPacketState s
      else complete ((s.setRespData s.ibuf).setLc .respPending)) ≠ .refused r := by
    split_ifs <;> simp
  simp only [addrespOp, withNoArg_eq_refused]
  split_ifs with hlc hpt
  · simp; tauto
  · simp [hpt]
  · simp only [withIbuf_eq_refused, hread]; tauto

theorem replyOp_refused : replyOp p arg s = .refused r ↔
    r = .capExceeded ∧ s.lc ≠ .built ∧ s.pkt.packetType = ptCommand ∧ arg ∈ p.statusValid ∧
      p.cap < (replyBytes s.pkt s.respData arg).length := by
  unfold replyOp
  split_ifs with hlc hpt hst
  · simp [hlc]
  · simp [hpt]
  · simp only [writeObuf_eq_refused]; tauto
  · simp [hst]

theorem execNew_ne_refused : execNew arg s ≠ .refused r := by
  simp [execNew, withNoArg_eq_refused]

theorem rdfOp_refused : rdfOp p arg s = .refused r ↔
    r = .capExceeded ∧
      ((arg = 0#8 ∧ p.cap < s.pkt.destPathAddr.length) ∨ (arg = 6#8 ∧ p.cap < s.pkt.srcPathAddr.length) ∨
       (arg = 13#8 ∧ p.cap < s.pkt.data.length) ∨ (arg = 16#8 ∧ p.cap < s.respData.length)) := by
  rw [← readsSeqBeyond_iff, rdfOp]
  rcases fieldOfId arg with _ | f
  · simp
  · rcases hread : readField s f with v | b <;> simp [hread, writeObuf_eq_refused, and_comm]

theorem wrfScalar_ne_refused {f : ScalarField} : wrfScalar f s ≠ .refused r := by
  unfold wrfScalar
  split_ifs <;> simp

theorem wrfSeq_refused {q : SeqField} : wrfSeq p q s = .refused r ↔ r = .capExceeded ∧ p.cap < s.ibuf.length := by
  simp only [wrfSeq, withIbuf_eq_refused]
  split_ifs <;> simp [and_comm]

theorem wrfOp_refused : wrfOp p arg s = .refused r ↔
    r = .capExceeded ∧ (arg = 0#8 ∨ arg = 6#8 ∨ arg = 13#8) ∧ s.lc = .built ∧ p.cap < s.ibuf.length := by
  rw [← namesSeq_iff, wrfOp]
  rcases fieldOfId arg with _ | ⟨x⟩ | ⟨q⟩ | _ | _ | _
  case some.scalar => split_ifs <;> simp [wrfScalar_ne_refused]
  case some.seq => by_cases hlc : s.lc = .built <;> simp [hlc, wrfSeq_refused]
  all_goals simp

end Refusals

/-- Settles O52, by the `refused` inversion lemma of each operation. -/
theorem refusedExactlyBeyondCap : Obligations.RefusedExactlyBeyondCap := by
  intro p i s r
  cases i with
  | crc8 arg => simpa [execFor] using crc8Op_refused
  | decode arg => simpa [execFor] using decodeOp_refused
  | encode arg => simpa [execFor] using encodeOp_refused
  | stamp arg => simpa [execFor] using execStamp_ne_refused
  | check arg => simpa [execFor] using execCheck_ne_refused
  | addresp arg => simpa [execFor, ptCommand] using addrespOp_refused
  | reply status => simpa [execFor, ptCommand] using replyOp_refused
  | new arg => simpa [execFor] using execNew_ne_refused
  | rdf fid => simpa [execFor] using rdfOp_refused
  | wrf fid => simpa [execFor] using wrfOp_refused

/-! ### Big-endian serialization -/

/-- The last byte of a serialization is the least significant one. -/
theorem be_succ (n : Nat) {w : Nat} (v : BitVec w) : be (n + 1) v = be n (v >>> 8) ++ [v.extractLsb' 0 8] := by
  have hshift : ∀ k < n, v.extractLsb' (8 * (n - k)) 8 = (v >>> 8).extractLsb' (8 * (n - 1 - k)) 8 := by
    intro k hk
    have hpos : 8 * (n - k) = 8 + 8 * (n - 1 - k) := by omega
    apply BitVec.eq_of_toNat_eq
    simp [BitVec.extractLsb'_toNat, hpos, Nat.shiftRight_add]
  simpa [be, List.range_succ] using hshift

theorem getElem?_be {n k : Nat} (h : k < n) {w : Nat} (v : BitVec w) :
    (be n v)[k]? = some (v.extractLsb' (8 * (n - 1 - k)) 8) := by
  simp [be, h]

/-- The low `n` bytes of a value, read back. -/
theorem fromBe_be (n : Nat) {w : Nat} (v : BitVec w) : fromBe (be n v) = v.toNat % 2 ^ (8 * n) := by
  induction n generalizing v with
  | zero => simp [be, Nat.mod_one]
  | succ n ih =>
    have hpow : 2 ^ (8 * (n + 1)) = 256 * 2 ^ (8 * n) := by rw [Nat.mul_succ, Nat.pow_add, Nat.mul_comm]
    rw [be_succ, fromBe_concat, ih, hpow, Nat.mod_mul]
    simp [BitVec.extractLsb'_toNat, Nat.shiftRight_eq_div_pow]
    omega

theorem fromBe_lt (s : Bytes) : fromBe s < 2 ^ (8 * s.length) := by
  induction s using List.reverseRecOn with
  | nil => simp
  | append_singleton s b ih =>
    have hb := b.isLt
    rw [fromBe_concat, List.length_append, List.length_singleton, Nat.mul_succ 8, Nat.pow_add]
    omega

/-- A sequence is the serialization of its value in every width that holds it. -/
theorem be_fromBe {w : Nat} (s : Bytes) (hw : 8 * s.length ≤ w) : be s.length (BitVec.ofNat w (fromBe s)) = s := by
  induction s using List.reverseRecOn with
  | nil => rfl
  | append_singleton s b ih =>
    have hlt : fromBe (s ++ [b]) < 2 ^ w := (fromBe_lt _).trans_le (Nat.pow_le_pow_right (by decide) hw)
    have hb := b.isLt
    rw [fromBe_concat] at hlt
    have hhigh : BitVec.ofNat w (fromBe s * 256 + b.toNat) >>> 8 = BitVec.ofNat w (fromBe s) := by
      apply BitVec.eq_of_toNat_eq
      rw [BitVec.toNat_ushiftRight, BitVec.toNat_ofNat, BitVec.toNat_ofNat, Nat.mod_eq_of_lt hlt,
        Nat.mod_eq_of_lt (by omega), Nat.shiftRight_eq_div_pow]
      omega
    have hlow : (BitVec.ofNat w (fromBe s * 256 + b.toNat)).extractLsb' 0 8 = b := by
      apply BitVec.eq_of_toNat_eq
      rw [BitVec.extractLsb'_toNat, BitVec.toNat_ofNat, Nat.mod_eq_of_lt hlt, Nat.shiftRight_zero]
      omega
    rw [List.length_append, List.length_singleton, be_succ, fromBe_concat, hhigh, hlow,
      ih (by simp at hw; omega)]

/-- Settles O57: `be` by induction on the number of bytes, `from_be` by induction on the sequence from its end. -/
theorem bigEndianRoundTrips : Obligations.BigEndianRoundTrips := by
  refine ⟨fun n v => ⟨length_be n v, ?_, fun k hk => getElem?_be hk v⟩,
    fun s => ⟨fromBe_lt s, be_fromBe s le_rfl⟩⟩
  rw [fromBe_be, Nat.mod_eq_of_lt v.isLt]

end Sys2Proof.Machine
end

section
/-! PROOFS. State and lifecycle (`spec/10_state.md` R20 to R41): what one operation and one step can do to the state,
the block's invariant, who writes what, and what the host's other actions do. -/

namespace Sys2Proof.Machine

/-! ### What the packet decoder answers -/

theorem bind_eq_ok {ε α β : Type} {x : Except ε α} {f : α → Except ε β} {b : β} :
    (x >>= f) = .ok b ↔ ∃ a, x = .ok a ∧ f a = .ok b := by
  cases x <;> simp [bind, Except.bind]

/-- The errors DECODE can raise (R123, R241): MalformedPacket, naming a field of the decode table. -/
def IsDecodeError (e : ErrKind) : Prop := ∃ f, e = .malformedPacket f ∧ fieldId f ∈ malformedIds

/-- Every error that `x` answers is one of DECODE's. -/
def FailsAsDecode {α : Type} (x : Except ErrKind α) : Prop := ∀ e, x = .error e → IsDecodeError e

theorem failsAsDecode_ok {α : Type} (a : α) : FailsAsDecode (.ok a) := nofun

theorem failsAsDecode_needByte {f : Field} (hf : fieldId f ∈ malformedIds) (buf : Bytes) :
    FailsAsDecode (needByte f buf) :=
  fun _ h => ⟨f, (needByte_eq_error.1 h).2, hf⟩

theorem failsAsDecode_need {f : Field} (hf : fieldId f ∈ malformedIds) (n : Nat) (buf : Bytes) :
    FailsAsDecode (need n f buf) :=
  fun _ h => ⟨f, (need_eq_error.1 h).2, hf⟩

theorem FailsAsDecode.bind {α β : Type} {x : Except ErrKind α} {f : α → Except ErrKind β} (hx : FailsAsDecode x)
    (hf : ∀ a, FailsAsDecode (f a)) : FailsAsDecode (x >>= f) := by
  cases x with
  | error e => intro _ h; cases h; exact hx _ rfl
  | ok a => exact hf a

/-- One read after the other: each names a field of R123's table. -/
theorem failsAsDecode_parseCommand (lam : Byte) (buf : Bytes) : FailsAsDecode (parseCommand lam buf) := by
  have byte {f : Field} (hf : fieldId f ∈ malformedIds) (r : Bytes) := failsAsDecode_needByte hf r
  have bytes {f : Field} (hf : fieldId f ∈ malformedIds) (n : Nat) (r : Bytes) := failsAsDecode_need hf n r
  refine .bind (byte (by decide) _) fun _ => .bind (byte (by decide) _) fun _ => .bind (byte (by decide) _) fun _ =>
    .bind (byte (by decide) _) fun _ => .bind (bytes (by decide) _ _) fun _ => .bind (byte (by decide) _) fun _ =>
    .bind (bytes (by decide) _ _) fun _ => .bind (byte (by decide) _) fun _ => .bind (bytes (by decide) _ _) fun _ =>
    .bind (bytes (by decide) _ _) fun _ => .bind (byte (by decide) _) fun _ => .bind (bytes (by decide) _ _) fun _ =>
    .bind (byte (by decide) _) fun _ => failsAsDecode_ok _

/-- The instruction byte (R72) is its three fields. -/
theorem instructionBits_append (b : Byte) : packetTypeBits b ++ commandBits b ++ srcAddrLenBits b = b := by
  revert b; decide

/-- R131, R135: what DECODE accepts is a command packet, with any byte for the protocol id, and a tail; the packet
it loads is the one laid out there. -/
theorem parseCommand_ok {lam : Byte} {buf rest : Bytes} {P : Packet} (h : parseCommand lam buf = .ok (P, rest)) :
    Decodable lam P ∧ ∃ pid, buf = commandLayout pid P ++ rest := by
  simp only [parseCommand, bind_eq_ok, Prod.exists, needByte_eq_ok, need_eq_ok, Except.ok.injEq,
    Prod.mk.injEq] at h
  obtain ⟨dla, _, hpath, pid, _, rfl, ib, _, rfl, key, _, rfl, sp, _, ⟨rfl, hsp⟩, sla, _, rfl, tid, _, ⟨rfl, htid⟩,
    ext, _, rfl, mem, _, ⟨rfl, hmem⟩, dl, _, ⟨rfl, hdl⟩, hc, _, rfl, d, _, ⟨rfl, hd⟩, dc, _, rfl, rfl, rfl⟩ := h
  have hlen : (BitVec.ofNat 24 (fromBe dl)).toNat = fromBe dl := by
    have hlt := fromBe_lt dl
    rw [hdl] at hlt
    exact BitVec.toNat_ofNat .. |>.trans (Nat.mod_eq_of_lt hlt)
  refine ⟨⟨hsp.symm, hlen.trans hd.symm, scanPath_lt lam buf, BitVec.not_lt.1 (afterPath_head hpath)⟩, pid, ?_⟩
  have hbe {n : Nat} {b : Bytes} (hb : b.length = n) : be n (BitVec.ofNat (8 * n) (fromBe b)) = b := by
    subst hb; exact be_fromBe b le_rfl
  conv_lhs => rw [← scanPath_append_afterPath lam buf, hpath]
  simp only [commandLayout, instructionBits_append, ← be_two, ← be_three, ← be_four]
  rw [hbe htid, hbe hmem, hbe hdl]
  simp

/-! ### What one operation can do -/

/-- The writes `u` of an operation that completes, before ERR and ERR_FIELD are cleared: the checks its pseudocode
passes and what it then writes (R104, R124, R151, R155, R156, R180, R182, R210, R211, R214). -/
inductive Commits (p : Params) (s : State) : Instr → State → Prop where
  | crc8 (hcap : s.ibuf.length ≤ p.cap) :
      Commits p s (.crc8 0) (s.setResult ((Machine.crc8 s.ibuf).setWidth 32))
  | decode {P rest} (hcap : s.ibuf.length ≤ p.cap) (hparse : parseCommand p.logicalAddrMin s.ibuf = .ok (P, rest)) :
      Commits p s (.decode 0) (decodeCommit s P (s.ibuf.length - rest.length))
  | encode (hinv : inv s.pkt = true) (hcap : (enc s.pkt).length ≤ p.cap) :
      Commits p s (.encode 0) (s.setObuf (enc s.pkt))
  | stamp (hlc : s.lc = .built) (hinv : inv s.pkt = true) :
      Commits p s (.stamp 0) (s.setPkt (stamped s.pkt))
  | check (hinv : inv s.pkt = true) :
      Commits p s (.check 0) (s.setResult (checkFlags (headerCrcOk s.pkt) (dataCrcOk s.pkt)))
  | addresp (hlc : s.lc = .decoded ∨ s.lc = .respPending) (hpt : s.pkt.packetType = ptCommand)
      (hcap : s.ibuf.length ≤ p.cap) (hmax : s.ibuf.length ≤ maxDataLen) :
      Commits p s (.addresp 0) ((s.setRespData s.ibuf).setLc .respPending)
  | reply {c} (hlc : s.lc ≠ .built) (hpt : s.pkt.packetType = ptCommand) (hvalid : c ∈ p.statusValid)
      (hcap : (replyBytes s.pkt s.respData c).length ≤ p.cap) :
      Commits p s (.reply c) ((s.setLc .replied).setObuf (replyBytes s.pkt s.respData c))
  | new : Commits p s (.new 0) (((s.setPkt Packet.empty).setRespData []).setLc .built)
  | rdfScalar {f v} (hread : readField s f = .scalar v) : Commits p s (.rdf (fieldId f)) (s.setDout v)
  | rdfSeq {f b} (hread : readField s f = .seq b) (hcap : b.length ≤ p.cap) :
      Commits p s (.rdf (fieldId f)) ((s.setDout (BitVec.ofNat 32 b.length)).setObuf b)
  | wrfScalar {x} (hlc : s.lc = .built) (hfits : scalarFits x s.din = true) :
      Commits p s (.wrf (fieldId (.scalar x))) (s.setPkt (setScalar s.pkt x s.din))
  | wrfSeq {q} (hlc : s.lc = .built) (hcap : s.ibuf.length ≤ p.cap) (hfits : seqFits q s.ibuf = true) :
      Commits p s (.wrf (fieldId (.seq q))) (s.setPkt (setSeq s.pkt q s.ibuf))

/-- The errors an operation can raise: MalformedPacket only with a field of R123's table. -/
def IsRaisable (e : ErrKind) : Prop := ∀ f, e = .malformedPacket f → fieldId f ∈ malformedIds

theorem IsDecodeError.isRaisable {e : ErrKind} (h : IsDecodeError e) : IsRaisable e := by
  obtain ⟨f, rfl, hf⟩ := h
  rintro _ ⟨⟩
  exact hf

/-- The state after an operation (R15, R16, R245): ERR and ERR_FIELD of an error and nothing else, or all of its
writes. -/
theorem execFor_next {p : Params} {i : Instr} {s t : State} (h : execFor p i s = .next t) :
    (∃ e, IsRaisable e ∧ t = s.setErr (errCode e) (errInfo e)) ∨ ∃ u, Commits p s i u ∧ t = done u := by
  have state : IsRaisable .invalidPacketState := nofun
  have status : IsRaisable .invalidStatus := nofun
  have illegal : IsRaisable .illegalOperation := nofun
  cases i with
  | crc8 arg =>
    obtain ⟨-, rfl⟩ | ⟨rfl, hcap, rfl⟩ := crc8Op_next.1 h
    exacts [.inl ⟨_, illegal, rfl⟩, .inr ⟨_, .crc8 hcap, rfl⟩]
  | decode arg =>
    obtain ⟨-, rfl⟩ | ⟨rfl, hcap, ⟨e, he, rfl⟩ | ⟨P, rest, hparse, rfl⟩⟩ := decodeOp_next.1 h
    exacts [.inl ⟨_, illegal, rfl⟩, .inl ⟨e, (failsAsDecode_parseCommand _ _ e he).isRaisable, rfl⟩,
      .inr ⟨_, .decode hcap hparse, rfl⟩]
  | encode arg =>
    obtain ⟨-, rfl⟩ | ⟨-, -, rfl⟩ | ⟨rfl, hinv, hcap, rfl⟩ := encodeOp_next.1 h
    exacts [.inl ⟨_, illegal, rfl⟩, .inl ⟨_, state, rfl⟩, .inr ⟨_, .encode hinv hcap, rfl⟩]
  | stamp arg =>
    obtain ⟨-, rfl⟩ | ⟨-, -, rfl⟩ | ⟨rfl, hlc, hinv, rfl⟩ := execStamp_next.1 h
    exacts [.inl ⟨_, illegal, rfl⟩, .inl ⟨_, state, rfl⟩, .inr ⟨_, .stamp hlc hinv, rfl⟩]
  | check arg =>
    obtain ⟨-, rfl⟩ | ⟨-, -, rfl⟩ | ⟨rfl, hinv, rfl⟩ := execCheck_next.1 h
    exacts [.inl ⟨_, illegal, rfl⟩, .inl ⟨_, state, rfl⟩, .inr ⟨_, .check hinv, rfl⟩]
  | addresp arg =>
    obtain ⟨-, rfl⟩ | ⟨-, -, rfl⟩ | ⟨rfl, hlc, hpt, hcap, hmax, rfl⟩ := addrespOp_next.1 h
    exacts [.inl ⟨_, illegal, rfl⟩, .inl ⟨_, state, rfl⟩, .inr ⟨_, .addresp hlc hpt hcap hmax, rfl⟩]
  | reply c =>
    obtain ⟨-, rfl⟩ | ⟨-, -, -, rfl⟩ | ⟨hlc, hpt, hvalid, hcap, rfl⟩ := replyOp_next.1 h
    exacts [.inl ⟨_, state, rfl⟩, .inl ⟨_, status, rfl⟩, .inr ⟨_, .reply hlc hpt hvalid hcap, rfl⟩]
  | new arg =>
    obtain ⟨-, rfl⟩ | ⟨rfl, rfl⟩ := execNew_next.1 h
    exacts [.inl ⟨_, illegal, rfl⟩, .inr ⟨_, .new, rfl⟩]
  | rdf fid =>
    obtain ⟨-, rfl⟩ | ⟨f, v, hf, hread, rfl⟩ | ⟨f, b, hf, hread, hcap, rfl⟩ := rdfOp_next.1 h
    · exact .inl ⟨_, illegal, rfl⟩
    · obtain rfl := fieldOfId_eq_some.1 hf
      exact .inr ⟨_, .rdfScalar hread, rfl⟩
    · obtain rfl := fieldOfId_eq_some.1 hf
      exact .inr ⟨_, .rdfSeq hread hcap, rfl⟩
  | wrf fid =>
    obtain ⟨-, rfl⟩ | ⟨-, -, rfl⟩ | ⟨hlc, x, hx, ⟨-, rfl⟩ | ⟨hfits, rfl⟩⟩ |
      ⟨hlc, q, hq, hcap, ⟨-, rfl⟩ | ⟨hfits, rfl⟩⟩ := wrfOp_next.1 h
    · exact .inl ⟨_, illegal, rfl⟩
    · exact .inl ⟨_, state, rfl⟩
    · exact .inl ⟨_, illegal, rfl⟩
    · obtain rfl := fieldOfId_eq_some.1 hx
      exact .inr ⟨_, .wrfScalar hlc hfits, rfl⟩
    · exact .inl ⟨_, illegal, rfl⟩
    · obtain rfl := fieldOfId_eq_some.1 hq
      exact .inr ⟨_, .wrfSeq hlc hcap hfits, rfl⟩

/-! ### The invariant, part by part -/

/-- Completing leaves 0 and 0xFF. -/
theorem errRegistersAgree_done (u : State) : ErrRegistersAgree (done u) :=
  ⟨by simp, by simp, by simp⟩

theorem errRegistersAgree_raise {e : ErrKind} (he : IsRaisable e) (s : State) :
    ErrRegistersAgree (s.setErr (errCode e) (errInfo e)) := by
  cases e with
  | malformedPacket f => exact ⟨by simp, fun _ => he f rfl, by simp⟩
  | invalidPacketState => exact ⟨by simp, by simp, by simp⟩
  | invalidStatus => exact ⟨by simp, by simp, by simp⟩
  | illegalOperation => exact ⟨by simp, by simp, by simp⟩

/-- Every operation writes ERR and ERR_FIELD afresh, whatever they held (R33, R246). -/
theorem execFor_errRegistersAgree {p : Params} {i : Instr} {s t : State} (h : execFor p i s = .next t) :
    ErrRegistersAgree t := by
  obtain ⟨e, he, rfl⟩ | ⟨u, -, rfl⟩ := execFor_next h
  · exact errRegistersAgree_raise he s
  · exact errRegistersAgree_done u

/-- The packet's part of the capacities (R20). -/
abbrev PacketFits (p : Params) (P : Packet) : Prop :=
  P.destPathAddr.length ≤ p.cap ∧ P.srcPathAddr.length ≤ min p.cap 3 ∧ P.data.length ≤ min p.cap (2 ^ 24 - 1)

/-- A packet that DECODE loads fits: its sequences are parts of IBUF, and its length fields bound two of them. -/
theorem packetFits_of_parseCommand {p : Params} {buf rest : Bytes} {P : Packet} (hcap : buf.length ≤ p.cap)
    (h : parseCommand p.logicalAddrMin buf = .ok (P, rest)) : PacketFits p P := by
  obtain ⟨⟨hsrc, hdata, -⟩, pid, rfl⟩ := parseCommand_ok h
  rw [List.length_append, length_commandLayout] at hcap
  have := P.srcAddrLen.isLt
  have := P.dataLen.isLt
  omega

theorem packetFits_setScalar {p : Params} {P : Packet} (h : PacketFits p P) (x : ScalarField) (v : Word) :
    PacketFits p (setScalar P x v) := by
  cases x <;> exact h

theorem packetFits_setSeq {p : Params} {P : Packet} {q : SeqField} {b : Bytes} (h : PacketFits p P)
    (hcap : b.length ≤ p.cap) (hfits : seqFits q b = true) : PacketFits p (setSeq P q b) := by
  obtain ⟨hpath, hsrc, hdata⟩ := h
  cases q with
  | destPath => exact ⟨hcap, hsrc, hdata⟩
  | srcPath => exact ⟨hpath, le_min hcap (of_decide_eq_true hfits), hdata⟩
  | data => exact ⟨hpath, hsrc, le_min hcap (of_decide_eq_true hfits)⟩

/-- No operation writes a sequence beyond its capacity. -/
theorem Commits.capacitiesHold {p : Params} {i : Instr} {s u : State} (h : Commits p s i u)
    (hs : CapacitiesHold p s) : CapacitiesHold p u := by
  obtain ⟨hibuf, hobuf, hpath, hsrc, hdata, hresp⟩ := hs
  have hpkt : PacketFits p s.pkt := ⟨hpath, hsrc, hdata⟩
  cases h with
  | crc8 | check | stamp | rdfScalar => exact ⟨hibuf, hobuf, hpath, hsrc, hdata, hresp⟩
  | decode hcap hparse =>
    obtain ⟨hpath, hsrc, hdata⟩ := packetFits_of_parseCommand hcap hparse
    exact ⟨hibuf, hobuf, hpath, hsrc, hdata, Nat.zero_le _⟩
  | new => exact ⟨hibuf, hobuf, Nat.zero_le _, Nat.zero_le _, Nat.zero_le _, Nat.zero_le _⟩
  | encode _ hcap | reply _ _ _ hcap | rdfSeq _ hcap =>
    exact ⟨hibuf, decide_eq_true hcap, hpath, hsrc, hdata, hresp⟩
  | addresp _ _ hcap hmax => exact ⟨hibuf, hobuf, hpath, hsrc, hdata, le_min hcap hmax⟩
  | wrfScalar =>
    obtain ⟨hpath, hsrc, hdata⟩ := packetFits_setScalar hpkt _ _
    exact ⟨hibuf, hobuf, hpath, hsrc, hdata, hresp⟩
  | wrfSeq _ hcap hfits =>
    obtain ⟨hpath, hsrc, hdata⟩ := packetFits_setSeq hpkt hcap hfits
    exact ⟨hibuf, hobuf, hpath, hsrc, hdata, hresp⟩

/-- In BUILT, LC says only that there is no response data: any packet may be under construction. -/
theorem lifecycleAgrees_of_built {p : Params} {s : State} (hlc : s.lc = .built) (hresp : s.respData = []) :
    LifecycleAgrees p s :=
  ⟨fun hne => absurd hlc hne, fun _ => hresp, by simp [hlc]⟩

/-- The moves of LC, each with what the new value says of PKT and RB. -/
theorem Commits.lifecycleAgrees {p : Params} {i : Instr} {s u : State} (h : Commits p s i u)
    (hs : LifecycleAgrees p s) : LifecycleAgrees p u := by
  obtain ⟨hpkt, hresp, hcmd⟩ := hs
  cases h with
  | crc8 | check | encode | rdfScalar | rdfSeq => exact ⟨hpkt, hresp, hcmd⟩
  | decode _ hparse => exact ⟨fun _ => (parseCommand_ok hparse).1, fun _ => rfl, by simp [decodeCommit]⟩
  | addresp hlc hpt => exact ⟨fun _ => hpkt (by rcases hlc with h | h <;> simp [h]), by simp, fun _ => hpt⟩
  | reply hlc hpt => exact ⟨fun _ => hpkt hlc, by simp, fun _ => hpt⟩
  | new => exact lifecycleAgrees_of_built rfl rfl
  | stamp hlc | wrfScalar hlc | wrfSeq hlc => exact lifecycleAgrees_of_built hlc (hresp (.inl hlc))

theorem execFor_keeps_blockInv {p : Params} {i : Instr} {s t : State} (hs : BlockInv p s)
    (h : execFor p i s = .next t) : BlockInv p t := by
  obtain ⟨hcaps, -, hlife⟩ := hs
  have herr : ErrRegistersAgree t := execFor_errRegistersAgree h
  obtain ⟨e, -, rfl⟩ | ⟨u, hu, rfl⟩ := execFor_next h
  · exact ⟨hcaps, herr, hlife⟩
  · exact ⟨hu.capacitiesHold hcaps, herr, hu.lifecycleAgrees hlife⟩

/-- Settles O54: every sequence is empty, ERR is clear and LC is BUILT. -/
theorem resetMeetsTheInvariant : Obligations.ResetMeetsTheInvariant := by
  intro p
  obtain ⟨hibuf, hobuf⟩ := reset_memory_wf p
  exact ⟨⟨hibuf, hobuf, Nat.zero_le _, Nat.zero_le _, Nat.zero_le _, Nat.zero_le _⟩, errRegistersAgree_done State.reset,
    lifecycleAgrees_of_built rfl rfl⟩

/-! ### Steps -/

theorem hostStep_idle {p : Params} {run : Instr → State → Answer} {s : State} (h : s.pending = []) :
    hostStep p run s = .next s := by
  simp [hostStep, h]

theorem hostStep_cons {p : Params} {run : Instr → State → Answer} {s : State} {a : HostAction}
    {rest : List HostAction} (h : s.pending = a :: rest) :
    hostStep p run s = hostAction p run a (s.setPending rest) := by
  simp [hostStep, h]

theorem hostIbuf_eq_next {p : Params} {b : Bytes} {s t : State} :
    hostIbuf p b s = .next t ↔ b.length ≤ p.cap ∧ t = s.setIbuf b := by
  by_cases h : b.length ≤ p.cap <;> simp [hostIbuf, h, eq_comm]

theorem issue_keeps_blockInv {p : Params} {w : Half} {s t : State} (hs : BlockInv p s)
    (h : issue (execFor p) w s = .next t) : BlockInv p t := by
  unfold issue at h
  split at h
  · exact execFor_keeps_blockInv hs h
  · obtain ⟨hcaps, -, hlife⟩ := hs
    obtain rfl := raise_eq_next.1 h
    exact ⟨hcaps, errRegistersAgree_raise (e := .illegalOperation) nofun s, hlife⟩

theorem hostAction_keeps_blockInv {p : Params} {a : HostAction} {s t : State} (hs : BlockInv p s)
    (h : hostAction p (execFor p) a s = .next t) : BlockInv p t := by
  cases a with
  | cmd w => exact issue_keeps_blockInv hs h
  | ibuf b =>
    obtain ⟨⟨-, hcaps⟩, herr, hlife⟩ := hs
    obtain ⟨hb, rfl⟩ := hostIbuf_eq_next.1 h
    exact ⟨⟨decide_eq_true hb, hcaps⟩, herr, hlife⟩
  | din v => cases h; exact hs
  | reset => cases h; exact resetMeetsTheInvariant p

/-- Settles O55: by the host's next action, which finds the invariant, since it does not speak of the host's list. -/
theorem everyStepKeepsTheInvariant : Obligations.EveryStepKeepsTheInvariant := by
  intro p s t _ hs h
  rcases hpend : s.pending with _ | ⟨a, rest⟩
  · rw [stepFor, hostStep_idle hpend] at h
    cases h
    exact hs
  · rw [stepFor, hostStep_cons hpend] at h
    exact hostAction_keeps_blockInv (s := s.setPending rest) hs h

/-- Settles O46: by the state every operation leaves the ERR registers in. -/
theorem errFieldNamesAFieldOnlyForMalformedPacket : Obligations.ErrFieldNamesAFieldOnlyForMalformedPacket := by
  intro i s t h
  rw [exec_eq_execFor] at h
  exact execFor_errRegistersAgree h

/-- Settles O50: every answer writes ERR and ERR_FIELD afresh, and no check reads them. -/
theorem errorsLeaveNothingBehind : Obligations.ErrorsLeaveNothingBehind := by
  intro i s e f
  cases i <;> rfl

/-- Settles O3, by the step lemma of each host action. -/
theorem hostActionsWriteOnlyTheirTarget : Obligations.HostActionsWriteOnlyTheirTarget := by
  refine ⟨fun s b rest h => ⟨fun hb => ?_, fun hb => ?_⟩, fun s v rest h => hostStep_cons h,
    fun s rest h => hostStep_cons h, fun s h => hostStep_idle h⟩
  · exact (hostStep_cons h).trans (hostIbuf_eq_next.2 ⟨hb, rfl⟩)
  · exact (hostStep_cons h).trans (if_neg (Nat.not_le.2 hb))

/-! ### Who writes what -/

/-- The fields RDF copies to OBUF (R211, R212). -/
theorem fieldId_of_readField_seq {s : State} {f : Field} {b : Bytes} (h : readField s f = .seq b) :
    fieldId f ∈ ([0, 6, 13, 16] : List Byte) := by
  cases f with
  | seq q => cases q <;> decide
  | respData => decide
  | scalar x => cases h
  | protocolId => cases h
  | instruction => cases h

/-- Settles O51: an error writes no register but ERR and ERR_FIELD, and the writes of each operation are in
`Commits`. -/
theorem eachRegisterHasItsWriters : Obligations.EachRegisterHasItsWriters := by
  intro i s t h
  rw [exec_eq_execFor] at h
  obtain ⟨e, -, rfl⟩ | ⟨u, hu, rfl⟩ := execFor_next h
  · simp
  · cases hu with
    | rdfSeq hread =>
      have hid := fieldId_of_readField_seq hread
      simpa using fun _ => hid
    | _ => simp [decodeCommit]

/-! ### The lifecycle table -/

/-- An operation that completes has moved LC by its row of R31, from a value the row admits. -/
theorem Commits.lc {p : Params} {i : Instr} {s u : State} (h : Commits p s i u) :
    (∀ a, i = .decode a → u.lc = .decoded) ∧ (∀ a, i = .new a → u.lc = .built) ∧
    (∀ a, i = .addresp a → (s.lc = .decoded ∨ s.lc = .respPending) ∧ u.lc = .respPending) ∧
    (∀ a, i = .reply a → s.lc ≠ .built ∧ u.lc = .replied) ∧
    (∀ a, (i = .wrf a ∨ i = .stamp a) → s.lc = .built ∧ u.lc = .built) ∧
    (∀ a, (i = .encode a ∨ i = .check a ∨ i = .crc8 a ∨ i = .rdf a) → u.lc = s.lc) := by
  cases h <;> simp [decodeCommit, *]

/-- The operations that neither need a value of LC nor are stopped by one (R31) end alike from every value of it. -/
theorem execFor_setLc {p : Params} {i : Instr} {a : Byte} {l : Lifecycle} {s t : State}
    (hi : i ∈ [Instr.decode a, .new a, .encode a, .check a, .crc8 a, .rdf a]) (h : execFor p i s = .next t) :
    ∃ u, execFor p i (s.setLc l) = .next u ∧ u.err = t.err ∧ u.errField = t.errField := by
  simp only [List.mem_cons, List.not_mem_nil, or_false] at hi
  rcases hi with rfl | rfl | rfl | rfl | rfl | rfl
  · obtain ⟨ha, rfl⟩ | ⟨ha, hcap, ⟨e, he, rfl⟩ | ⟨P, rest, hparse, rfl⟩⟩ := decodeOp_next.1 h
    exacts [⟨_, decodeOp_next.2 (.inl ⟨ha, rfl⟩), rfl, rfl⟩,
      ⟨_, decodeOp_next.2 (.inr ⟨ha, hcap, .inl ⟨e, he, rfl⟩⟩), rfl, rfl⟩,
      ⟨_, decodeOp_next.2 (.inr ⟨ha, hcap, .inr ⟨P, rest, hparse, rfl⟩⟩), rfl, rfl⟩]
  · obtain ⟨ha, rfl⟩ | ⟨ha, rfl⟩ := execNew_next.1 h
    exacts [⟨_, execNew_next.2 (.inl ⟨ha, rfl⟩), rfl, rfl⟩, ⟨_, execNew_next.2 (.inr ⟨ha, rfl⟩), rfl, rfl⟩]
  · obtain ⟨ha, rfl⟩ | ⟨ha, hinv, rfl⟩ | ⟨ha, hinv, hcap, rfl⟩ := encodeOp_next.1 h
    exacts [⟨_, encodeOp_next.2 (.inl ⟨ha, rfl⟩), rfl, rfl⟩,
      ⟨_, encodeOp_next.2 (.inr (.inl ⟨ha, hinv, rfl⟩)), rfl, rfl⟩,
      ⟨_, encodeOp_next.2 (.inr (.inr ⟨ha, hinv, hcap, rfl⟩)), rfl, rfl⟩]
  · obtain ⟨ha, rfl⟩ | ⟨ha, hinv, rfl⟩ | ⟨ha, hinv, rfl⟩ := execCheck_next.1 h
    exacts [⟨_, execCheck_next.2 (.inl ⟨ha, rfl⟩), rfl, rfl⟩,
      ⟨_, execCheck_next.2 (.inr (.inl ⟨ha, hinv, rfl⟩)), rfl, rfl⟩,
      ⟨_, execCheck_next.2 (.inr (.inr ⟨ha, hinv, rfl⟩)), rfl, rfl⟩]
  · obtain ⟨ha, rfl⟩ | ⟨ha, hcap, rfl⟩ := crc8Op_next.1 h
    exacts [⟨_, crc8Op_next.2 (.inl ⟨ha, rfl⟩), rfl, rfl⟩, ⟨_, crc8Op_next.2 (.inr ⟨ha, hcap, rfl⟩), rfl, rfl⟩]
  · have hread (f : Field) : readField (s.setLc l) f = readField s f := by cases f <;> rfl
    obtain ⟨hf, rfl⟩ | ⟨f, v, hf, hv, rfl⟩ | ⟨f, b, hf, hb, hcap, rfl⟩ := rdfOp_next.1 h
    exacts [⟨_, rdfOp_next.2 (.inl ⟨hf, rfl⟩), rfl, rfl⟩,
      ⟨_, rdfOp_next.2 (.inr (.inl ⟨f, v, hf, (hread f).trans hv, rfl⟩)), rfl, rfl⟩,
      ⟨_, rdfOp_next.2 (.inr (.inr ⟨f, b, hf, (hread f).trans hb, hcap, rfl⟩)), rfl, rfl⟩]

/-- The field ids WRF may write are 0 to 14 (R88). -/
theorem exists_writable_iff {fid : Byte} : (∃ f, fieldOfId fid = some f ∧ Writable f) ↔ fid.toNat ≤ 14 := by
  constructor
  · rintro ⟨f, hf, ⟨x, rfl⟩ | ⟨q, rfl⟩⟩ <;> obtain rfl := fieldOfId_eq_some.1 hf
    · cases x <;> decide
    · cases q <;> decide
  · intro hle
    rcases hf : fieldOfId fid with _ | f
    · have := fieldOfId_eq_none.1 hf
      omega
    · refine ⟨f, rfl, ?_⟩
      obtain rfl := fieldOfId_eq_some.1 hf
      cases f with
      | scalar x => exact .inl ⟨x, rfl⟩
      | seq q => exact .inr ⟨q, rfl⟩
      | protocolId | respData | instruction => exact absurd hle (by decide)

/-- Settles O44: LC after a completed operation by `Commits.lc`, after an error unchanged; the blocked operations by
their inversion lemmas. -/
theorem lifecycleMovesAsTheTableSays : Obligations.LifecycleMovesAsTheTableSays := by
  refine ⟨fun i s t h herr => ?_, fun i s t h herr => ?_, fun s hlc => ?_, fun c s hlc => ?_, fun s hlc => ⟨?_, ?_⟩,
    fun a l s t i hi h => ?_⟩
  · rw [exec_eq_execFor] at h
    obtain ⟨e, -, rfl⟩ | ⟨u, hu, rfl⟩ := execFor_next h
    · exact absurd herr (errCode_ne_zero e)
    · exact hu.lc
  · rw [exec_eq_execFor] at h
    obtain ⟨e, -, rfl⟩ | ⟨u, -, rfl⟩ := execFor_next h
    · rfl
    · exact absurd rfl herr
  · exact addrespOp_next.2 (.inr (.inl ⟨rfl, .inl (by rcases hlc with h | h <;> simp [h]), rfl⟩))
  · exact replyOp_next.2 (.inl ⟨.inl hlc, rfl⟩)
  · exact execStamp_next.2 (.inr (.inl ⟨rfl, .inl hlc, rfl⟩))
  · exact fun f hf => wrfOp_next.2 (.inr (.inl ⟨exists_writable_iff.2 hf, hlc, rfl⟩))
  · simp only [exec_eq_execFor] at h ⊢
    exact execFor_setLc hi h

end Sys2Proof.Machine
end

section
/-! PROOFS. The buffers and CAP (`spec/20_memory.md` R50 to R59): within the invariant only an output beyond CAP stops
an operation. -/

namespace Sys2Proof.Machine

/-- The block has no fault (R245, R247): what is not refused answers a next state. -/
theorem exists_next_of_ne_refused {a : Answer} (h : ∀ r, a ≠ .refused r) : ∃ t, a = .next t := by
  cases a with
  | next t => exact ⟨t, rfl⟩
  | fault f => cases f
  | refused r => exact absurd rfl (h r)

/-- Where the capacities hold, no input or stored sequence causes a refusal (R59): only the output of an ENCODE or a
REPLY does. -/
theorem refused_of_capacitiesHold {p : Params} {i : Instr} {s : State} {r : Refusal} (hs : CapacitiesHold p s)
    (h : execFor p i s = .refused r) :
    (i = .encode 0 ∧ inv s.pkt = true ∧ p.cap < (enc s.pkt).length) ∨
    (∃ c, i = .reply c ∧ s.lc ≠ .built ∧ s.pkt.packetType = 0b01#2 ∧ c ∈ p.statusValid ∧
      p.cap < (replyBytes s.pkt s.respData c).length) := by
  obtain ⟨hbuf, -, hpath, hsrc, hdata, hresp⟩ := hs
  have hibuf : s.ibuf.length ≤ p.cap := of_decide_eq_true hbuf
  obtain ⟨-, ⟨-, hlen⟩ | henc | ⟨-, -, -, hlen⟩ | hreply | ⟨-, hlen⟩ | ⟨-, hlen⟩ | ⟨-, hlen⟩ | ⟨-, hlen⟩ |
    ⟨-, -, hlen⟩⟩ := (refusedExactlyBeyondCap p i s r).1 h
  case inr.inl => exact .inl henc
  case inr.inr.inr.inl => exact .inr hreply
  all_goals omega

/-- Settles O53: a refusal would be that of an output beyond CAP, which the hypotheses exclude. -/
theorem everyOperationCompletesWithinCap : Obligations.EveryOperationCompletesWithinCap := by
  rintro p i s ⟨hcaps, -⟩ hencode hreply
  refine exists_next_of_ne_refused fun r hr => ?_
  obtain ⟨hi, hinv, hlen⟩ | ⟨c, hi, hlc, hpt, hc, hlen⟩ := refused_of_capacitiesHold hcaps hr
  · exact absurd (hencode hi hinv) (Nat.not_le.2 hlen)
  · exact absurd (hreply c hi hlc hpt hc) (Nat.not_le.2 hlen)

end Sys2Proof.Machine
end

section
/-! PROOFS. Encodings (`spec/30_encoding.md` R70 to R91): the instruction byte, command packets, command words and
their illegal values, assembler lines, and the reply layouts. -/

namespace Sys2Proof.Machine

/-! ### The instruction byte -/

/-- R72: packing is concatenation, most significant field first. -/
theorem pack_eq_append (pt : BitVec 2) (cmd : BitVec 4) (sal : BitVec 2) :
    pack pt cmd sal = (pt ++ cmd ++ sal : BitVec 8) := by
  revert pt cmd sal
  decide

section InstructionFields

variable (pt : BitVec 2) (cmd : BitVec 4) (sal : BitVec 2)

theorem toNat_instruction_append :
    (pt ++ cmd ++ sal : BitVec 8).toNat = pt.toNat * 64 + cmd.toNat * 4 + sal.toNat := by
  rw [BitVec.toNat_append, BitVec.toNat_append, ← Nat.shiftLeft_add_eq_or_of_lt cmd.isLt,
    ← Nat.shiftLeft_add_eq_or_of_lt sal.isLt]
  simp only [Nat.shiftLeft_eq]
  omega

@[simp] theorem packetTypeBits_append : packetTypeBits (pt ++ cmd ++ sal) = pt := by
  apply BitVec.eq_of_toNat_eq
  rw [packetTypeBits, BitVec.extractLsb'_toNat, toNat_instruction_append, Nat.shiftRight_eq_div_pow]
  omega

@[simp] theorem commandBits_append : commandBits (pt ++ cmd ++ sal) = cmd := by
  apply BitVec.eq_of_toNat_eq
  rw [commandBits, BitVec.extractLsb'_toNat, toNat_instruction_append, Nat.shiftRight_eq_div_pow]
  omega

@[simp] theorem srcAddrLenBits_append : srcAddrLenBits (pt ++ cmd ++ sal) = sal := by
  apply BitVec.eq_of_toNat_eq
  rw [srcAddrLenBits, BitVec.extractLsb'_toNat, toNat_instruction_append, Nat.shiftRight_eq_div_pow]
  omega

end InstructionFields

/-- Settles O56: packing is concatenation, from which each field is read back. -/
theorem instructionByteRoundTrips : Obligations.InstructionByteRoundTrips := by
  refine ⟨fun pt cmd sal => ?_, fun b => ?_⟩
  · rw [pack_eq_append]
    exact ⟨packetTypeBits_append .., commandBits_append .., srcAddrLenBits_append .., toNat_instruction_append ..⟩
  · rw [pack_eq_append, instructionBits_append]

/-! ### Command packets -/

theorem inv_of_decodable {lam : Byte} {P : Packet} (h : Decodable lam P) : inv P = true := by
  obtain ⟨hsrc, hdata, -⟩ := h
  exact inv_iff.2 ⟨hsrc, hdata⟩

theorem bind_ok {ε α β : Type} (a : α) (f : α → Except ε β) : (Except.ok a >>= f) = f a := rfl

/-- A serialization of a value of `n` bytes reads back whole. -/
theorem fromBe_be_self (n : Nat) (v : BitVec (8 * n)) : fromBe (be n v) = v.toNat := by
  rw [fromBe_be, Nat.mod_eq_of_lt v.isLt]

/-- The converse of `parseCommand_ok` (R122, R124, R127): the layout of a decodable packet, with any byte for the
protocol id, parses to it and leaves the tail. -/
theorem parseCommand_commandLayout {lam : Byte} {P : Packet} (h : Decodable lam P) (pid : Byte) (tail : Bytes) :
    parseCommand lam (commandLayout pid P ++ tail) = .ok (P, tail) := by
  obtain ⟨hsrc, hdata, hpath, hdla⟩ := h
  have hlen : fromBe (be 3 P.dataLen) = P.dataLen.toNat := fromBe_be_self 3 P.dataLen
  have htid : fromBe (be 2 P.transactionId) = P.transactionId.toNat := fromBe_be_self 2 P.transactionId
  have hmem : fromBe (be 4 P.memAddr) = P.memAddr.toNat := fromBe_be_self 4 P.memAddr
  simp only [commandLayout, ← be_two, ← be_three, ← be_four, List.append_assoc, List.cons_append, List.nil_append]
  simp only [parseCommand, scanPath_stop hpath (BitVec.not_lt.2 hdla), needByte_cons, bind_ok, srcAddrLenBits_append,
    packetTypeBits_append, commandBits_append, need_append hsrc.symm, need_append (length_be _ _), hlen, htid, hmem,
    need_append hdata.symm, BitVec.ofNat_toNat, BitVec.setWidth_eq]

/-- DECODE of a buffer that begins with a decodable packet loads it and counts its bytes (R127, R133). -/
theorem decodeOp_commandLayout {p : Params} {s : State} {P : Packet} {pid : Byte} {tail : Bytes}
    (h : Decodable p.logicalAddrMin P) (hbuf : s.ibuf = commandLayout pid P ++ tail) (hcap : s.ibuf.length ≤ p.cap) :
    decodeOp p 0 s = .next (done (decodeCommit s P (commandLayout pid P).length)) := by
  have hparse : parseCommand p.logicalAddrMin s.ibuf = .ok (P, tail) := hbuf ▸ parseCommand_commandLayout h pid tail
  have hconsumed : s.ibuf.length - tail.length = (commandLayout pid P).length := by simp [hbuf]
  exact decodeOp_next.2 (.inr ⟨rfl, hcap, .inr ⟨P, tail, hparse, hconsumed ▸ rfl⟩⟩)

theorem toNat_ofNat_of_le_cap {p : Params} (hp : p.wf = true) {n : Nat} (h : n ≤ p.cap) :
    (BitVec.ofNat 32 n).toNat = n := by
  have hcap : p.cap ≤ 2 ^ 32 - 1 := by simp [Params.wf] at hp; omega
  rw [BitVec.toNat_ofNat, Nat.mod_eq_of_lt (by omega)]

/-- Settles O22: ENCODE writes the layout with protocol id 0x01, which parses back to the packet. -/
theorem encodeThenDecodeGivesBackThePacket : Obligations.EncodeThenDecodeGivesBackThePacket := by
  intro p hp s hP hcap
  have hbuf : enc s.pkt = commandLayout 0x01 s.pkt ++ [] := by rw [List.append_nil, commandLayout_one]
  refine ⟨done (s.setObuf (enc s.pkt)), _, encodeOp_next.2 (.inr (.inr ⟨rfl, inv_of_decodable hP, hcap, rfl⟩)), rfl,
    decodeOp_commandLayout hP hbuf hcap, rfl, rfl, ?_⟩
  rw [commandLayout_one]
  exact toNat_ofNat_of_le_cap hp hcap

/-! ### Command words -/

theorem argOf_toNat (w : Half) : (argOf w).toNat = w.toNat % 256 := by
  simp [argOf, BitVec.extractLsb'_toNat]

/-- R84: a command word is its two bytes. -/
theorem toNat_eq_opcOf_argOf (w : Half) : w.toNat = (opcOf w).toNat * 256 + (argOf w).toNat := by
  rw [opcOf_toNat, argOf_toNat]
  omega

theorem encode_fields (i : Instr) : opcOf (encode i) = i.opcode ∧ argOf (encode i) = i.argument :=
  Laws.halves_of_word i.opcode i.argument

/-- R86, R89: OPC selects the operation and ARG is its operand. -/
theorem decode_eq_ok {w : Half} {i : Instr} : decode w = .ok i ↔ opcOf w = i.opcode ∧ argOf w = i.argument := by
  constructor
  · intro h
    unfold decode at h
    split at h <;> cases h
    all_goals exact ⟨BitVec.eq_of_toNat_eq ‹_›, rfl⟩
  · rintro ⟨hopc, harg⟩
    cases i <;> simp [decode, hopc, harg, Instr.opcode, Instr.argument]

/-- Settles O5: `decode` reads the two bytes of a word, which are the opcode and the argument of what it encodes. -/
theorem commandWordsRoundTrip : Obligations.CommandWordsRoundTrip := by
  refine ⟨fun i => decode_eq_ok.2 (encode_fields i), fun w i h => ?_, fun i => ?_⟩ <;>
    obtain ⟨hopc, harg⟩ := encode_fields i
  · obtain ⟨hw, hw'⟩ := decode_eq_ok.1 h
    apply BitVec.eq_of_toNat_eq
    rw [toNat_eq_opcOf_argOf, toNat_eq_opcOf_argOf w, hopc, harg, hw, hw']
  · rw [toNat_eq_opcOf_argOf, hopc, harg]

/-- Settles O6: the words of R86's table and R90's examples, evaluated. -/
theorem writtenOutWordsDecode : Obligations.WrittenOutWordsDecode :=
  ⟨rfl, rfl, rfl, rfl, rfl, rfl, rfl, rfl, rfl, rfl, rfl, rfl⟩

/-- Settles O7: the lines of R90 and R91, evaluated. -/
theorem assemblerLinesGiveTheirWords : Obligations.AssemblerLinesGiveTheirWords := by
  unfold Obligations.AssemblerLinesGiveTheirWords
  decide

/-! ### Illegal encodings -/

/-- R87: the operation codes are 0x01 to 0x0A. -/
theorem exists_decode_eq_ok_iff {w : Half} : (∃ i, decode w = .ok i) ↔ 1 ≤ w.toNat / 256 ∧ w.toNat / 256 ≤ 10 := by
  rw [← opcOf_toNat]
  constructor
  · rintro ⟨i, h⟩
    rw [(decode_eq_ok.1 h).1]
    cases i <;> simp [Instr.opcode]
  · rintro ⟨hlow, hhigh⟩
    unfold decode
    split
    case h_11 => simp only [imp_false] at *; omega
    all_goals exact ⟨_, rfl⟩

theorem issue_of_decode_ne_ok {run : Instr → State → Answer} {w : Half} (h : ¬ ∃ i, decode w = .ok i) (s : State) :
    issue run w s = raise .illegalOperation s := by
  unfold issue
  split
  · exact absurd ⟨_, ‹_›⟩ h
  · rfl

/-- No check of REPLY is one of its encoding (R87): its errors are InvalidPacketState and InvalidStatus. -/
theorem replyOp_err_ne_illegal {p : Params} {c : Byte} {s t : State} (h : replyOp p c s = .next t) : t.err ≠ 4 := by
  obtain ⟨-, rfl⟩ | ⟨-, -, -, rfl⟩ | ⟨-, -, -, -, rfl⟩ := replyOp_next.1 h <;> simp

/-- Settles O4, by the first case of each operation's inversion lemma. -/
theorem illegalEncodingsRaiseIllegalOperation : Obligations.IllegalEncodingsRaiseIllegalOperation := by
  refine ⟨fun s w rest hs hw => ?_, fun w hlow hhigh => exists_decode_eq_ok_iff.2 ⟨hlow, hhigh⟩,
    fun arg s harg i hi => ?_, fun f s hf => ?_, fun f s hf => ?_, fun c s hc hlc hpt => ?_,
    fun c s t h => replyOp_err_ne_illegal h⟩
  · exact (hostStep_cmd hs).trans (issue_of_decode_ne_ok (by rw [exists_decode_eq_ok_iff]; omega) _)
  · simp only [List.mem_cons, List.not_mem_nil, or_false] at hi
    rcases hi with rfl | rfl | rfl | rfl | rfl | rfl | rfl
    all_goals exact withNoArg_ne harg s _
  · exact rdfOp_next.2 (.inl ⟨fieldOfId_eq_none.2 hf, rfl⟩)
  · have hro : ¬ ∃ fld, fieldOfId f = some fld ∧ Writable fld := by rw [exists_writable_iff]; omega
    exact wrfOp_next.2 (.inl ⟨fun fld hfld hw => hro ⟨fld, hfld, hw⟩, rfl⟩)
  · exact replyOp_next.2 (.inr (.inl ⟨hlc, hpt, hc, rfl⟩))

/-! ### Reply layouts -/

/-- The head of both reply layouts, byte by byte (R77, R80, R81). -/
theorem replyHead_eq (C : Packet) (c : Byte) : replyHead C c =
    [C.srcLogicalAddr, 0x01, (0b00#2 ++ C.command ++ 0b00#2 : BitVec 8), c, C.destLogicalAddr,
      C.transactionId.extractLsb' 8 8, C.transactionId.extractLsb' 0 8] := by
  simp [replyHead, be_two, pack_eq_append, protocolIdConst, ptReply]

theorem replyBytes_write {C : Packet} (h : C.command.getLsbD 3 = true) (d : Bytes) (c : Byte) :
    replyBytes C d c = wreply C c := if_pos h

theorem replyBytes_read {C : Packet} (h : C.command.getLsbD 3 = false) (d : Bytes) (c : Byte) :
    replyBytes C d c = rreply C c (if c = 0x00 then d else []) := if_neg (ne_true_of_eq_false h)

/-- REPLY of a valid status, in a state that allows it, writes the reply bytes (R182). -/
theorem replyOp_valid {p : Params} {c : Byte} {s : State} {out : Bytes} (hlc : s.lc ≠ .built)
    (hpt : s.pkt.packetType = ptCommand) (hc : c ∈ p.statusValid) (hout : replyBytes s.pkt s.respData c = out)
    (hcap : out.length ≤ p.cap) : replyOp p c s = .next (done ((s.setLc .replied).setObuf out)) := by
  subst hout
  exact replyOp_next.2 (.inr (.inr ⟨hlc, hpt, hc, hcap, rfl⟩))

/-- A REPLY that the state and the status allow and that answers has written the reply bytes. -/
theorem obuf_of_replyOp_valid {p : Params} {c : Byte} {s t : State} (hlc : s.lc ≠ .built)
    (hpt : s.pkt.packetType = ptCommand) (hc : c ∈ p.statusValid) (h : replyOp p c s = .next t) :
    t.obuf = replyBytes s.pkt s.respData c := by
  obtain ⟨hstate, -⟩ | ⟨-, -, hstatus, -⟩ | ⟨-, -, -, -, rfl⟩ := replyOp_next.1 h
  · exact absurd hstate (not_or.2 ⟨hlc, not_not.2 hpt⟩)
  · exact absurd hc hstatus
  · rfl

/-- Settles O30: the write reply is `wreply`, whose head is written out by `replyHead_eq`. -/
theorem writeReplyLayout : Obligations.WriteReplyLayout := by
  intro c s hlc hpt hc hwrite hcap
  have hlen : (wreply s.pkt c).length ≤ Config.params.cap := by rwa [length_wreply]
  have hout := replyOp_valid hlc hpt hc (replyBytes_write hwrite _ _) hlen
  simp only [wreply, replyHead_eq] at hout
  exact hout

theorem fromBe_three (a b c : Byte) : fromBe [a, b, c] = a.toNat * 65536 + b.toNat * 256 + c.toNat := by
  simp only [fromBe, List.foldl]
  omega

/-- The data-length bytes of R78 say the length of the data. -/
theorem toNat_be_three {n : Nat} (h : n ≤ 2 ^ 24 - 1) : ∃ l2 l1 l0 : Byte,
    be 3 (BitVec.ofNat 24 n) = [l2, l1, l0] ∧ l2.toNat * 65536 + l1.toNat * 256 + l0.toNat = n := by
  refine ⟨_, _, _, be_three _, ?_⟩
  rw [← fromBe_three, ← be_three]
  exact (fromBe_be_self 3 (BitVec.ofNat 24 n)).trans (Nat.mod_eq_of_lt (by omega))

/-- Settles O31: the read reply is `rreply`, whose head is written out by `replyHead_eq` and `be_three`. -/
theorem readReplyLayout : Obligations.ReadReplyLayout := by
  intro c s hlc hpt hc hread hresp d hcap
  have hd : d.length ≤ s.respData.length := by
    unfold d
    split <;> simp
  obtain ⟨l2, l1, l0, hbe, hval⟩ := toNat_be_three (hd.trans hresp)
  have hlen : (rreply s.pkt c d).length ≤ Config.params.cap := by rwa [length_rreply]
  have hout := replyOp_valid hlc hpt hc (replyBytes_read hread _ _) hlen
  refine ⟨l2, l1, l0, hval, ?_⟩
  simp only [rreply, replyHead_eq, d, hbe] at hout
  exact hout

/-- A read reply is q + 12 bytes up to its header CRC, then the data and its CRC (R78). -/
theorem rreply_eq (C : Packet) (c : Byte) (d : Bytes) :
    ∃ pre : Bytes, pre.length = C.srcPathAddr.length + 12 ∧ rreply C c d = pre ++ d ++ [crc8 d] :=
  ⟨_, by simp, rfl⟩

/-- What a completed ADDRESP leaves (R180, R189). -/
theorem addrespOp_completed {p : Params} {arg : Byte} {s t : State} (h : addrespOp p arg s = .next t)
    (herr : t.err = 0) :
    t.respData = s.ibuf ∧ t.lc = .respPending ∧ t.pkt.packetType = ptCommand ∧ s.ibuf.length ≤ p.cap := by
  obtain ⟨-, rfl⟩ | ⟨-, -, rfl⟩ | ⟨-, -, hpt, hcap, -, rfl⟩ := addrespOp_next.1 h
  · simp at herr
  · simp at herr
  · exact ⟨rfl, rfl, hpt, hcap⟩

/-- Settles O35: a completed ADDRESP has moved IBUF to RB, from where RDF 16 and a read reply take it. -/
theorem responseDataIsWhatWasAttached : Obligations.ResponseDataIsWhatWasAttached := by
  intro s t h herr
  rw [exec_eq_execFor] at h
  obtain ⟨hresp, hlc, hpt, hcap⟩ := addrespOp_completed h herr
  rw [← hresp] at hcap ⊢
  have hrdf := rdfOp_next (arg := 16).2 (.inr (.inr ⟨.respData, t.respData, rfl, rfl, hcap, rfl⟩))
  refine ⟨rfl, ⟨_, hrdf, rfl, rfl, toNat_ofNat_of_le_cap (p := Config.params) (by decide) hcap⟩, fun v hv => ?_⟩
  rw [exec_eq_execFor] at hv
  have hobuf : v.obuf = replyBytes t.pkt t.respData 0 :=
    obuf_of_replyOp_valid (by simp [hlc]) hpt (mem_statusValid_iff.2 (by decide)) hv
  rw [hobuf]
  refine ⟨fun hread => ?_, fun hwrite => ?_⟩
  · rw [replyBytes_read hread]
    exact rreply_eq t.pkt 0 t.respData
  · rw [replyBytes_write hwrite]
    exact length_wreply t.pkt 0

end Sys2Proof.Machine
end

section
/-! PROOFS. The CRC-8 engine (`spec/40_crc.md` R101 to R105): its recursion along the sequence, its linearity over xor,
the printed table, the source's vectors and the operation CRC8. -/

namespace Sys2Proof.Machine

/-! ### The bit-serial engine -/

theorem crc8_nil : crc8 [] = 0#8 := rfl

/-- Bytes are taken in index order: the last one is stepped in last (R101). -/
theorem crc8_concat (s : Bytes) (b : Byte) : crc8 (s ++ [b]) = crc8Step (crc8 s) b := by
  simp [crc8]

/-- Settles O9: both sides are R101's algorithm. -/
theorem crcIsTheBitSerialAlgorithm : Obligations.CrcIsTheBitSerialAlgorithm :=
  ⟨crc8_nil, crc8_concat, fun _ _ => rfl⟩

/-- The eight shifts depend on `c xor b` only (R102). -/
theorem crc8Step_eq_zero_xor (c b : Byte) : crc8Step c b = crc8Step 0 (c ^^^ b) := by
  simp [crc8Step]

/-- A byte equal to the register clears it, because there is no final xor (R103 c). -/
@[simp] theorem crc8Step_self (c : Byte) : crc8Step c c = 0#8 := by
  rw [crc8Step_eq_zero_xor, BitVec.xor_self]
  rfl

/-! ### Linearity over xor -/

/-- The constant that a shift adds: POLY_R when the bit shifted out is set. -/
def crcFeedback (out : Bool) : Byte := if out then crcPoly else 0#8

theorem crcShift_eq (c : Byte) : crcShift c = (c >>> 1) ^^^ crcFeedback (c.getLsbD 0) := by
  unfold crcShift crcFeedback
  split_ifs <;> simp

theorem crcFeedback_xor (p q : Bool) : crcFeedback (p ^^ q) = crcFeedback p ^^^ crcFeedback q := by
  revert p q
  decide

/-- The shift and the constant it adds are both linear over xor. -/
theorem crcShift_xor (a b : Byte) : crcShift (a ^^^ b) = crcShift a ^^^ crcShift b := by
  simp only [crcShift_eq, BitVec.getLsbD_xor, BitVec.ushiftRight_xor_distrib, crcFeedback_xor]
  ac_rfl

theorem iterate_crcShift_xor (n : Nat) (a b : Byte) :
    crcShift^[n] (a ^^^ b) = crcShift^[n] a ^^^ crcShift^[n] b := by
  induction n generalizing a b with
  | zero => rfl
  | succ n ih => simp only [Function.iterate_succ_apply, crcShift_xor, ih]

theorem crc8Step_xor (c d a b : Byte) : crc8Step (c ^^^ d) (a ^^^ b) = crc8Step c a ^^^ crc8Step d b := by
  have hswap : (c ^^^ d) ^^^ (a ^^^ b) = (c ^^^ a) ^^^ (d ^^^ b) := by ac_rfl
  simp only [crc8Step, hswap, iterate_crcShift_xor]

/-- Linearity from every pair of registers: the induction that the seed alone does not carry. -/
theorem foldl_crc8Step_zipWith_xor {a b : Bytes} (h : a.length = b.length) (c d : Byte) :
    (List.zipWith (· ^^^ ·) a b).foldl crc8Step (c ^^^ d) = a.foldl crc8Step c ^^^ b.foldl crc8Step d := by
  induction a generalizing b c d with
  | nil => simp [List.length_eq_zero_iff.1 h.symm]
  | cons x a ih =>
    obtain ⟨y, b, rfl⟩ := List.exists_cons_of_length_eq_add_one h.symm
    simp only [List.zipWith_cons_cons, List.foldl_cons, crc8Step_xor]
    exact ih (Nat.succ.inj h) _ _

theorem crc8_zipWith_xor {a b : Bytes} (h : a.length = b.length) :
    crc8 (List.zipWith (· ^^^ ·) a b) = crc8 a ^^^ crc8 b :=
  foldl_crc8Step_zipWith_xor h crcSeed crcSeed

theorem crc8_replicate_zero (n : Nat) : crc8 (List.replicate n 0#8) = 0#8 := by
  induction n with
  | zero => rfl
  | succ n ih => rw [List.replicate_succ', crc8_concat, ih, crc8Step_self]

/-- The residue of a sequence followed by its CRC (R103 c). -/
theorem crc8_concat_crc8 (s : Bytes) : crc8 (s ++ [crc8 s]) = 0#8 := by
  rw [crc8_concat, crc8Step_self]

/-- Settles O12: (b) and (c) because a step with the register's own value clears it, (d) because a shift is linear. -/
theorem crcIsLinearWithZeroResidue : Obligations.CrcIsLinearWithZeroResidue :=
  ⟨crc8_nil, crc8_replicate_zero, crc8_concat_crc8, fun _ _ => crc8_zipWith_xor⟩

/-! ### The table -/

/-- The 256 printed entries (R102), each compared with its eight shifts. -/
theorem crcTable_eq_map : crcTable = (List.range 256).map fun n => crc8Step 0 (BitVec.ofNat 8 n) := by
  decide +kernel

theorem length_crcTable : crcTable.length = 256 := by
  rw [crcTable_eq_map, List.length_map, List.length_range]

theorem getElem?_crcTable (i : Byte) : crcTable[i.toNat]? = some (crc8Step 0 i) := by
  have hi : i.toNat < 256 := i.isLt
  simp [crcTable_eq_map, hi]

theorem getElem?_crcTable_xor (c b : Byte) : crcTable[(c ^^^ b).toNat]? = some (crc8Step c b) := by
  rw [getElem?_crcTable, ← crc8Step_eq_zero_xor]

theorem getD_crcTable_xor (c b : Byte) : crcTable.getD (c ^^^ b).toNat 0 = crc8Step c b := by
  rw [List.getD_eq_getElem?_getD, getElem?_crcTable_xor, Option.getD_some]

/-- One look-up a byte is one step a byte, so the two folds are one. -/
theorem crc8ByTable_eq_crc8 (s : Bytes) : crc8ByTable s = crc8 s := by
  simp only [crc8ByTable, crc8, getD_crcTable_xor]

/-- Settles O10: the table's entries are evaluated once; a look-up is then a step, byte after byte. -/
theorem tableCrcEqualsBitSerialCrc : Obligations.TableCrcEqualsBitSerialCrc :=
  ⟨length_crcTable, by decide +kernel, getElem?_crcTable, getElem?_crcTable_xor, crc8ByTable_eq_crc8⟩

/-! ### The source's vectors and the operation -/

/-- Settles O11: the three vectors of R105, evaluated. -/
theorem crcReproducesTheSourceVectors : Obligations.CrcReproducesTheSourceVectors := by
  unfold Obligations.CrcReproducesTheSourceVectors
  decide +kernel

/-- Settles O13, by the two cases of CRC8's inversion lemma. -/
theorem crcOperationWritesTheCrcOfIbuf : Obligations.CrcOperationWritesTheCrcOfIbuf :=
  ⟨rfl, fun _ hcap => crc8Op_next.2 (.inr ⟨rfl, hcap, rfl⟩), fun _ _ harg => crc8Op_next.2 (.inl ⟨harg, rfl⟩)⟩

end Sys2Proof.Machine
end

section
/-! PROOFS. The packet decoder (`spec/41_decode.md` R120 to R137): what DECODE accepts and what it then loads, the
field it names when a packet is cut, and the round trip through ENCODE. -/

namespace Sys2Proof.Machine

/-! ### What DECODE accepts -/

/-- A DECODE that completes: IBUF begins with a decodable packet's layout, which is loaded and counted (R131, R133). -/
theorem decodeOp_completed {p : Params} {arg : Byte} {s t : State} (h : decodeOp p arg s = .next t) (ht : t.err = 0) :
    s.ibuf.length ≤ p.cap ∧ ∃ P pid tail, Decodable p.logicalAddrMin P ∧ s.ibuf = commandLayout pid P ++ tail ∧
      t = done (decodeCommit s P (commandLayout pid P).length) := by
  obtain ⟨-, rfl⟩ | ⟨-, hcap, ⟨e, -, rfl⟩ | ⟨P, rest, hparse, rfl⟩⟩ := decodeOp_next.1 h
  · exact absurd ht (by simp)
  · exact absurd ht (errCode_ne_zero e)
  · obtain ⟨hP, pid, hbuf⟩ := parseCommand_ok hparse
    have hconsumed : s.ibuf.length - rest.length = (commandLayout pid P).length := by simp [hbuf]
    exact ⟨hcap, P, pid, rest, hP, hbuf, hconsumed ▸ rfl⟩

/-- The protocol id stands after the logical address (R70). -/
theorem getElem?_commandLayout_protocolId (pid : Byte) (P : Packet) :
    (commandLayout pid P)[P.destPathAddr.length + 1]? = some pid := by
  simp [commandLayout]

/-- R135: a well-formed buffer is the layout of a decodable packet, with protocol id 0x01 and nothing after it. No
range of CAP is needed: RESULT is at most the bytes consumed, which are at most all of them. -/
theorem WellFormedBuffer.exists_commandLayout {p : Params} {b : Bytes} (h : WellFormedBuffer p b) :
    b.length ≤ p.cap ∧ ∃ P, Decodable p.logicalAddrMin P ∧ b = commandLayout 0x01 P := by
  obtain ⟨t, ht, herr, hresult, hpid⟩ := h
  obtain ⟨hcap, P, pid, tail, hP, hbuf, rfl⟩ := decodeOp_completed ht herr
  obtain rfl : b = commandLayout pid P ++ tail := hbuf
  have htail : tail = [] := by
    have hle : (commandLayout pid P).length % 2 ^ 32 ≤ (commandLayout pid P).length := Nat.mod_le _ _
    have hall : (commandLayout pid P).length % 2 ^ 32 = (commandLayout pid P).length + tail.length := by
      simpa [decodeCommit] using hresult
    exact List.eq_nil_of_length_eq_zero (by omega)
  subst htail
  rw [List.append_nil] at hpid hcap ⊢
  obtain rfl : pid = 0x01 := Option.some.inj ((getElem?_commandLayout_protocolId pid P).symm.trans hpid)
  exact ⟨hcap, P, hP, rfl⟩

/-- Settles O21: a well-formed buffer is the layout of the packet DECODE loads, and ENCODE writes that layout. -/
theorem decodeThenEncodeGivesBackTheBuffer : Obligations.DecodeThenEncodeGivesBackTheBuffer := by
  intro p _ s hwf
  obtain ⟨hcap, P, hP, hbuf⟩ := hwf.exists_commandLayout
  have henc : enc P = s.ibuf := by rw [hbuf, commandLayout_one]
  have hdecode := decodeOp_commandLayout (tail := []) hP (by rw [hbuf, List.append_nil]) hcap
  exact ⟨_, _, hdecode, rfl, encodeOp_next.2 (.inr (.inr ⟨rfl, inv_of_decodable hP, henc ▸ hcap, rfl⟩)), rfl, henc⟩

/-- Settles O14: DECODE of a decodable packet's layout, with the length of that layout written out. -/
theorem decodeLoadsThePacketOfTheBuffer : Obligations.DecodeLoadsThePacketOfTheBuffer := by
  intro s P pid tail hP hbuf hcap
  have ⟨hsrc, hdata, _⟩ := hP
  rw [hsrc, hdata, ← length_commandLayout pid P]
  exact decodeOp_commandLayout hP hbuf hcap

/-- Settles O15: the inversion of a completed DECODE, whose count fits in RESULT because IBUF is within CAP. -/
theorem decodeAcceptsOnlyTheCommandLayout : Obligations.DecodeAcceptsOnlyTheCommandLayout := by
  intro s t (h : decodeOp Config.params 0 s = .next t) ht
  obtain ⟨hcap, P, pid, tail, hP, hbuf, rfl⟩ := decodeOp_completed h ht
  have ⟨hsrc, hdata, _⟩ := hP
  have hle : (commandLayout pid P).length ≤ Config.params.cap := by
    rw [hbuf, List.length_append] at hcap
    omega
  have hcount : (BitVec.ofNat 32 (commandLayout pid P).length).toNat = (commandLayout pid P).length :=
    toNat_ofNat_of_le_cap (by decide) hle
  have hsum : (commandLayout pid P).length =
      P.destPathAddr.length + P.srcAddrLen.toNat + P.dataLen.toNat + 17 := by
    rw [length_commandLayout, hsrc, hdata]
  exact ⟨hP, ⟨pid, tail, hbuf, hcount⟩, hcount.trans hsum, rfl⟩

/-! ### A packet cut short -/

/-- The read fails with MalformedPacket naming the field of id `fid` (R123). -/
def FailsNaming {α : Type} (x : Except ErrKind α) (fid : Byte) : Prop :=
  ∃ f, x = .error (.malformedPacket f) ∧ fieldId f = fid

theorem FailsNaming.needByte_missing {α : Type} {f : Field} {b : Byte} {r : Bytes} {m : Nat} (hm : m = 0)
    (k : Byte × Bytes → Except ErrKind α) : FailsNaming (needByte f ((b :: r).take m) >>= k) (fieldId f) := by
  subst hm
  exact ⟨f, rfl, rfl⟩

/-- Reading a byte from a buffer cut after `m` bytes: it is missing when `m = 0`, and otherwise the later reads see a
buffer cut one byte earlier. -/
theorem FailsNaming.needByte_bind {α : Type} {f : Field} {b : Byte} {r : Bytes} {m : Nat} {c : Prop} [Decidable c]
    {k : Byte × Bytes → Except ErrKind α} {fid : Byte} (hc : c ↔ m = 0)
    (hk : 0 < m → FailsNaming (k (b, r.take (m - 1))) fid) :
    FailsNaming (needByte f ((b :: r).take m) >>= k) (if c then fieldId f else fid) := by
  cases m with
  | zero => rw [if_pos (hc.2 rfl)]; exact needByte_missing rfl k
  | succ m => rw [if_neg (by simp [hc])]; exact hk m.succ_pos

/-- Reading `n` bytes, where the whole packet holds `l = n`, from a buffer cut after `m` bytes: one is missing when
`m < l`. -/
theorem FailsNaming.need_bind {α : Type} {f : Field} {a r : Bytes} {n l m : Nat} {c : Prop} [Decidable c]
    {k : Bytes × Bytes → Except ErrKind α} {fid : Byte} (ha : a.length = l) (hn : n = l) (hc : c ↔ m < l)
    (hk : l ≤ m → FailsNaming (k (a, r.take (m - l))) fid) :
    FailsNaming (need n f ((a ++ r).take m) >>= k) (if c then fieldId f else fid) := by
  subst hn
  by_cases hm : m < n
  · have hshort : ((a ++ r).take m).length < n := (List.length_take_le _ _).trans_lt hm
    rw [if_pos (hc.2 hm), need_short hshort]
    exact ⟨f, rfl, rfl⟩
  · have htake : (a ++ r).take m = a ++ r.take (m - n) := by
      rw [List.take_append, ha, List.take_of_length_le (by omega)]
    rw [if_neg (by rwa [hc]), htake, need_append ha]
    exact hk (by omega)

/-- A cut at byte `j` leaves the path scan a buffer cut `j - p` bytes after the path: nothing, when the cut is within
the path or at its end (R122). -/
theorem afterPath_take {lam b : Byte} {path : Bytes} (hp : ∀ x ∈ path, x < lam) (hb : ¬ b < lam) (r : Bytes)
    (j : Nat) : afterPath lam ((path ++ b :: r).take j) = (b :: r).take (j - path.length) := by
  rw [List.take_append]
  by_cases hj : j ≤ path.length
  · rw [Nat.sub_eq_zero_of_le hj, List.take_zero, List.append_nil]
    exact afterPath_all fun x hx => hp x (List.mem_of_mem_take hx)
  · obtain ⟨m, hm⟩ : ∃ m, j - path.length = m + 1 := ⟨j - path.length - 1, by omega⟩
    rw [List.take_of_length_le (by omega), hm, List.take_succ_cons]
    exact (scanPath_stop hp hb _).2

/-- R137: the reads of R124 in their order, each with the condition of R70's table under which it is the first to
miss a byte. -/
theorem parseCommand_take_commandLayout {lam : Byte} {P : Packet} (h : Decodable lam P) {pid : Byte} {j : Nat}
    (hj : j < (commandLayout pid P).length) :
    FailsNaming (parseCommand lam ((commandLayout pid P).take j))
      (fieldHolding P.destPathAddr.length P.srcAddrLen.toNat P.dataLen.toNat j) := by
  obtain ⟨hsrc, hdata, hpath, hdla⟩ := h
  rw [length_commandLayout] at hj
  have hsal : (srcAddrLenBits (P.packetType ++ P.command ++ P.srcAddrLen)).toNat = P.srcAddrLen.toNat := by
    rw [srcAddrLenBits_append]
  have hdl : fromBe (be 3 P.dataLen) = P.dataLen.toNat := fromBe_be_self 3 P.dataLen
  simp only [commandLayout, ← be_two, ← be_three, ← be_four, List.append_assoc, List.cons_append, List.nil_append]
  simp only [parseCommand, afterPath_take hpath (BitVec.not_lt.2 hdla)]
  unfold fieldHolding
  exact .needByte_bind (by omega) fun _ => .needByte_bind (by omega) fun _ => .needByte_bind (by omega) fun _ =>
    .needByte_bind (by omega) fun _ => .need_bind hsrc.symm hsal (by omega) fun _ => .needByte_bind (by omega) fun _ =>
    .need_bind (length_be _ _) rfl (by omega) fun _ => .needByte_bind (by omega) fun _ =>
    .need_bind (length_be _ _) rfl (by omega) fun _ => .need_bind (length_be _ _) rfl (by omega) fun _ =>
    .needByte_bind (by omega) fun _ => .need_bind hdata.symm hdl (by omega) fun _ => .needByte_missing (by omega) _

/-- DECODE of a cut command packet raises MalformedPacket with that field and changes nothing else (R129, R137). -/
theorem execDecode_take_commandLayout {s : State} {P : Packet} {pid : Byte} {j : Nat}
    (hP : Decodable Config.params.logicalAddrMin P) (hj : j < (commandLayout pid P).length)
    (hbuf : s.ibuf = (commandLayout pid P).take j) (hcap : s.ibuf.length ≤ Config.params.cap) :
    exec (.decode 0) s = .next (s.setErr 1
      (fieldHolding P.destPathAddr.length P.srcAddrLen.toNat P.dataLen.toNat j)) := by
  obtain ⟨f, hparse, hf⟩ := parseCommand_take_commandLayout hP hj
  exact decodeOp_next.2 (.inr ⟨rfl, hcap, .inl ⟨_, hbuf ▸ hparse, hf ▸ rfl⟩⟩)

/-- Settles O16: a cut command packet, which a cut well-formed buffer is too. -/
theorem truncationNamesTheFieldCutInto : Obligations.TruncationNamesTheFieldCutInto := by
  refine ⟨fun s P pid j hP hj hbuf hcap => execDecode_take_commandLayout hP hj hbuf hcap, fun s b j hb hj hbuf => ?_⟩
  obtain ⟨hcap, P, hP, rfl⟩ := hb.exists_commandLayout
  have hcut : s.ibuf.length ≤ Config.params.cap := by
    rw [hbuf]
    exact (List.length_take_le' _ _).trans hcap
  exact ⟨P, hP, rfl, execDecode_take_commandLayout hP hj hbuf hcut⟩

/-! ### The protocol id, and a second DECODE -/

/-- Settles O19: both buffers load the same packet, whose layout ENCODE writes with protocol id 0x01. -/
theorem protocolIdIsReadAndLost : Obligations.ProtocolIdIsReadAndLost := by
  intro s P pid tail hP hbuf hcap
  have hlen : (commandLayout pid P ++ tail).length = (commandLayout 0x01 P ++ tail).length := by
    simp only [List.length_append, length_commandLayout]
  have hcap' : (commandLayout 0x01 P ++ tail).length ≤ Config.params.cap := by rwa [← hlen, ← hbuf]
  have henc : (enc P).length ≤ Config.params.cap := by
    rw [List.length_append, commandLayout_one] at hcap'
    omega
  exact ⟨_, _, _, decodeOp_commandLayout hP hbuf hcap, rfl, decodeOp_commandLayout hP rfl hcap', rfl,
    encodeOp_next.2 (.inr (.inr ⟨rfl, inv_of_decodable hP, henc, rfl⟩)), rfl, (commandLayout_one P).symm⟩

/-- DECODE keeps IBUF, the only thing it reads (R132). -/
theorem decodeOp_keeps_ibuf {p : Params} {arg : Byte} {s t : State} (h : decodeOp p arg s = .next t) :
    t.ibuf = s.ibuf := by
  obtain ⟨-, rfl⟩ | ⟨-, -, ⟨e, -, rfl⟩ | ⟨P, rest, -, rfl⟩⟩ := decodeOp_next.1 h <;> rfl

/-- A second DECODE changes nothing at all: in each case it writes the same values again. -/
theorem decodeOp_idempotent {p : Params} {arg : Byte} {s t : State} (h : decodeOp p arg s = .next t) :
    decodeOp p arg t = .next t := by
  obtain ⟨harg, rfl⟩ | ⟨harg, hcap, ⟨e, hparse, rfl⟩ | ⟨P, rest, hparse, rfl⟩⟩ := decodeOp_next.1 h
  · exact decodeOp_next.2 (.inl ⟨harg, rfl⟩)
  · exact decodeOp_next.2 (.inr ⟨harg, hcap, .inl ⟨e, hparse, rfl⟩⟩)
  · exact decodeOp_next.2 (.inr ⟨harg, hcap, .inr ⟨P, rest, hparse, rfl⟩⟩)

/-- Settles O18: DECODE keeps IBUF and is idempotent. -/
theorem decodeTwiceGivesTheSame : Obligations.DecodeTwiceGivesTheSame := by
  intro arg s t h
  have hibuf := decodeOp_keeps_ibuf h
  exact ⟨hibuf, t, decodeOp_idempotent h, hibuf, rfl, rfl, rfl, rfl⟩

end Sys2Proof.Machine
end

section
/-! PROOFS. The packet encoder (`spec/42_encode.md` R150 to R158): the serialization and its offsets, when CHECK passes,
and what it says of stamped and of decoded packets. -/

namespace Sys2Proof.Machine

/-! ### ENCODE and its layout -/

theorem inv_eq_false_iff {P : Packet} :
    inv P = false ↔ P.srcAddrLen.toNat ≠ P.srcPathAddr.length ∨ P.dataLen.toNat ≠ P.data.length := by
  rw [← Bool.not_eq_true, inv_iff, not_and_or]

/-- Settles O23, by the three cases of ENCODE's inversion lemma. -/
theorem encodeSerializesPkt : Obligations.EncodeSerializesPkt :=
  ⟨rfl, fun _ hsrc hdata hcap => encodeOp_next.2 (.inr (.inr ⟨rfl, inv_iff.2 ⟨hsrc, hdata⟩, hcap, rfl⟩)),
    fun _ hne => encodeOp_next.2 (.inr (.inl ⟨rfl, inv_eq_false_iff.2 hne, rfl⟩)),
    fun _ _ harg => encodeOp_next.2 (.inl ⟨harg, rfl⟩)⟩

/-- The bytes of a sequence from `i` on give its byte at every later offset. -/
theorem getElem?_of_drop {e r : Bytes} {i n : Nat} (h : e.drop i = r) (j : Nat) (hn : n = i + j) : e[n]? = r[j]? := by
  rw [← h, hn, List.getElem?_drop]

theorem drop_of_drop {e r : Bytes} {i n : Nat} (h : e.drop i = r) (j : Nat) (hn : n = i + j) :
    e.drop n = r.drop j := by
  rw [← h, hn, List.drop_drop]

/-- R76: after the path prefix stand the header, its CRC, the data and its CRC. -/
theorem drop_enc_destPath (P : Packet) :
    (enc P).drop P.destPathAddr.length = hdr P ++ P.headerCrc :: (P.data ++ [P.dataCrc]) := by
  simp [enc]

/-- ENCODE's output from the source logical address on (R70): no field up to the header CRC has a variable length. -/
def encFromSrcLa (P : Packet) : Bytes :=
  P.srcLogicalAddr :: (be 2 P.transactionId ++ P.extendedAddr :: (be 4 P.memAddr ++ be 3 P.dataLen)) ++
    P.headerCrc :: (P.data ++ [P.dataCrc])

theorem enc_eq_append (P : Packet) : enc P = P.destPathAddr ++
    (P.destLogicalAddr :: 0x01 :: pack P.packetType P.command P.srcAddrLen :: P.destKey ::
      (P.srcPathAddr ++ encFromSrcLa P)) := by
  simp [enc, hdr, encFromSrcLa, protocolIdConst]

/-- Settles O24: the output is cut after the path prefix, before the source path, after it, and before the data; each
offset is then a fixed distance from one of the cuts. -/
theorem encodedBytesStandAtTheirOffsets : Obligations.EncodedBytesStandAtTheirOffsets := by
  intro P hinv p k n e
  obtain ⟨hk, hn⟩ : k = P.srcPathAddr.length ∧ n = P.data.length := inv_iff.1 hinv
  have hlen : e.length = p + P.srcPathAddr.length + P.data.length + 17 := length_enc P
  have hhdr : e.drop p = hdr P ++ P.headerCrc :: (P.data ++ [P.dataCrc]) := drop_enc_destPath P
  have hdla : e.drop p = P.destLogicalAddr :: 0x01 :: pack P.packetType P.command P.srcAddrLen :: P.destKey ::
      (P.srcPathAddr ++ encFromSrcLa P) := by
    simp only [e, p, enc_eq_append, List.drop_left]
  have hsrc : e.drop (p + 4) = P.srcPathAddr ++ encFromSrcLa P := drop_of_drop hdla 4 rfl
  have hsla : e.drop (p + 4 + k) = encFromSrcLa P := by
    rw [drop_of_drop hsrc k rfl, List.drop_left' hk.symm]
  have hdata : e.drop (p + 16 + k) = P.data ++ [P.dataCrc] := drop_of_drop hsla 12 (by omega)
  refine ⟨by omega, by simp [e, p, enc], getElem?_of_drop hdla 0 rfl, getElem?_of_drop hdla 1 rfl,
    ⟨_, getElem?_of_drop hdla 2 rfl, ?_⟩, getElem?_of_drop hdla 3 rfl, ?_, getElem?_of_drop hsla 0 rfl, ?_,
    getElem?_of_drop hsla 3 (by omega), ?_, ?_, getElem?_of_drop hsla 11 (by omega), ?_, ?_, ?_⟩
  · rw [pack_eq_append, toNat_instruction_append]
  · rw [hsrc, List.take_left' hk.symm]
  · rw [drop_of_drop hsla 1 (by omega)]
    exact fromBe_be_self 2 P.transactionId
  · rw [drop_of_drop hsla 4 (by omega)]
    exact fromBe_be_self 4 P.memAddr
  · rw [drop_of_drop hsla 8 (by omega)]
    exact fromBe_be_self 3 P.dataLen
  · rw [hdata, List.take_left' hn.symm]
  · rw [getElem?_of_drop hdata n rfl, hn, List.getElem?_concat_length]
  · rw [hhdr, List.take_left' (by rw [length_hdr, hk])]

/-! ### STAMP and CHECK -/

/-- Settles O25, by the three cases of STAMP's inversion lemma. -/
theorem stampStoresBothCrcs : Obligations.StampStoresBothCrcs :=
  ⟨rfl, fun _ hlc hinv => execStamp_next.2 (.inr (.inr ⟨rfl, hlc, hinv, rfl⟩)),
    fun _ hne => execStamp_next.2 (.inr (.inl ⟨rfl, hne, rfl⟩)),
    fun _ _ harg => execStamp_next.2 (.inl ⟨harg, rfl⟩)⟩

@[simp] theorem getLsbD_zero_checkFlags (h d : Bool) : (checkFlags h d).getLsbD 0 = h := by
  revert h d; decide

@[simp] theorem getLsbD_one_checkFlags (h d : Bool) : (checkFlags h d).getLsbD 1 = d := by
  revert h d; decide

theorem checkFlags_lt (h d : Bool) : (checkFlags h d).toNat < 4 := by
  revert h d; decide

theorem checkFlags_eq_three {h d : Bool} : checkFlags h d = 3 ↔ h = true ∧ d = true := by
  revert h d; decide

theorem headerCrcOk_iff {P : Packet} : headerCrcOk P = true ↔ crc8 (hdr P) = P.headerCrc := decide_eq_true_iff

theorem dataCrcOk_iff {P : Packet} : dataCrcOk P = true ↔ crc8 P.data = P.dataCrc := decide_eq_true_iff

/-- CHECK of a packet whose lengths agree: the two bits of RESULT are the two matches (R156). -/
theorem execCheck_of_inv {s : State} (hinv : inv s.pkt = true) : ∃ r : Word,
    execCheck 0 s = .next (done (s.setResult r)) ∧ (r.getLsbD 0 = true ↔ crc8 (hdr s.pkt) = s.pkt.headerCrc) ∧
      (r.getLsbD 1 = true ↔ crc8 s.pkt.data = s.pkt.dataCrc) ∧ r.toNat < 4 := by
  refine ⟨_, execCheck_next.2 (.inr (.inr ⟨rfl, hinv, rfl⟩)), ?_, ?_, checkFlags_lt _ _⟩
  · rw [getLsbD_zero_checkFlags, headerCrcOk_iff]
  · rw [getLsbD_one_checkFlags, dataCrcOk_iff]

/-- Settles O26, by the three cases of CHECK's inversion lemma. -/
theorem checkReportsBothMatches : Obligations.CheckReportsBothMatches :=
  ⟨rfl, fun _ hinv => execCheck_of_inv hinv, fun _ hinv => execCheck_next.2 (.inr (.inl ⟨rfl, hinv, rfl⟩)),
    fun _ _ harg => execCheck_next.2 (.inl ⟨harg, rfl⟩)⟩

/-! ### CHECK after DECODE -/

/-- The received header is that of the packet with the received protocol id in its place, and its CRC follows it
(R70, R75). -/
theorem commandLayout_eq_header (pid : Byte) (P : Packet) : ∃ hd : Bytes,
    hdr P = P.destLogicalAddr :: 0x01 :: hd ∧ commandLayout pid P =
      P.destPathAddr ++ (P.destLogicalAddr :: pid :: hd ++ P.headerCrc :: (P.data ++ [P.dataCrc])) := by
  refine ⟨(hdr P).drop 2, rfl, ?_⟩
  simp [commandLayout, hdr, be_two, be_three, be_four, pack_eq_append]

/-- Settles O20: a completed DECODE has loaded the packet laid out in IBUF, and CHECK reports on that packet. -/
theorem checkAfterDecodeComparesReceivedBytes : Obligations.CheckAfterDecodeComparesReceivedBytes := by
  intro s t (h : decodeOp Config.params 0 s = .next t) ht
  obtain ⟨-, P, pid, tail, hP, hbuf, rfl⟩ := decodeOp_completed h ht
  obtain ⟨hd, hhdr, hlayout⟩ := commandLayout_eq_header pid P
  obtain ⟨r, hcheck, hbit0, hbit1, -⟩ :=
    execCheck_of_inv (s := done (decodeCommit s P (commandLayout pid P).length)) (inv_of_decodable hP)
  have hdrop : s.ibuf.drop P.destPathAddr.length =
      (P.destLogicalAddr :: pid :: hd) ++ (P.headerCrc :: (P.data ++ [P.dataCrc]) ++ tail) := by
    simp [hbuf, hlayout]
  have hlen : (P.destLogicalAddr :: pid :: hd).length = 15 + P.srcAddrLen.toNat := by
    have ⟨hsrc, _⟩ := hP
    rw [hsrc, ← length_hdr, hhdr]
    rfl
  refine ⟨hd, pid, _, ?_, hhdr, ?_, hcheck, rfl, hhdr ▸ hbit0, hbit1⟩
  · exact hdrop ▸ List.take_left' hlen
  · refine (getElem?_of_drop hdrop (15 + P.srcAddrLen.toNat) (Nat.add_assoc ..)).trans ?_
    rw [← hlen, List.getElem?_append_right le_rfl, Nat.sub_self]
    rfl

/-! ### CHECK after STAMP -/

/-- The packet passes CHECK: its lengths agree and both stored CRC bytes are the computed ones (R156). -/
def PassesCheck (P : Packet) : Prop :=
  inv P = true ∧ crc8 (hdr P) = P.headerCrc ∧ crc8 P.data = P.dataCrc

theorem execCheck_eq_three_iff {s : State} :
    execCheck 0 s = .next { s with result := 3, err := 0, errField := 0xFF } ↔ PassesCheck s.pkt := by
  have hflags : checkFlags (headerCrcOk s.pkt) (dataCrcOk s.pkt) = 3 ↔
      crc8 (hdr s.pkt) = s.pkt.headerCrc ∧ crc8 s.pkt.data = s.pkt.dataCrc := by
    rw [checkFlags_eq_three, headerCrcOk_iff, dataCrcOk_iff]
  constructor
  · intro h
    obtain ⟨harg, -⟩ | ⟨-, -, ht⟩ | ⟨-, hinv, ht⟩ := execCheck_next.1 h
    · exact absurd rfl harg
    · exact absurd (congrArg State.err ht) (by simp)
    · exact ⟨hinv, hflags.1 (congrArg State.result ht).symm⟩
  · rintro ⟨hinv, hcrcs⟩
    refine execCheck_next.2 (.inr (.inr ⟨rfl, hinv, ?_⟩))
    rw [hflags.2 hcrcs]
    rfl

/-- Neither CRC covers a CRC byte, so both computed ones still match once they are stored. -/
theorem passesCheck_stamped {P : Packet} (hinv : inv P = true) : PassesCheck (stamped P) :=
  ⟨hinv, rfl, rfl⟩

/-- R158: a packet that passes CHECK goes on doing so until another one is loaded or WRF writes a field other than
DEST_PATH, which no CRC covers. -/
theorem Commits.passesCheck {p : Params} {i : Instr} {s u : State} (h : Commits p s i u) (hs : PassesCheck s.pkt)
    (hwrf : ∀ f, i = .wrf f → f = 0) (hnew : ∀ a, i ≠ .new a) (hdecode : ∀ a, i ≠ .decode a) :
    PassesCheck u.pkt := by
  cases h with
  | crc8 | encode | check | addresp | reply | rdfScalar | rdfSeq => exact hs
  | stamp _ hinv => exact passesCheck_stamped hinv
  | new => exact absurd rfl (hnew 0)
  | decode => exact absurd rfl (hdecode 0)
  | @wrfScalar x => exact absurd (hwrf _ rfl) (by cases x <;> decide)
  | @wrfSeq q =>
    cases q with
    | destPath => exact hs
    | srcPath | data => exact absurd (hwrf _ rfl) (by decide)

/-- A shift loses nothing: the bit shifted out comes back as bit 7 of POLY_R. -/
theorem crcShift_eq_zero {c : Byte} : crcShift c = 0 ↔ c = 0 := by
  revert c; decide

theorem crc8Step_eq_zero {c b : Byte} : crc8Step c b = 0 ↔ c = b := by
  have hiter (n : Nat) (x : Byte) : crcShift^[n] x = 0 ↔ x = 0 := by
    induction n with
    | zero => rfl
    | succ n ih => rw [Function.iterate_succ_apply', crcShift_eq_zero, ih]
  rw [crc8Step, hiter]
  exact BitVec.xor_eq_zero_iff

/-- Settles O27: STAMP makes the packet pass, every other operation but those named keeps it so, and the zero residue
is `crc8Step_eq_zero` at the last byte. -/
theorem stampedPacketPassesCheck : Obligations.StampedPacketPassesCheck := by
  refine ⟨fun s t (h : execStamp 0 s = .next t) ht => ?_, fun i s t hs h hwrf hnew hdecode => ?_, fun P => ?_⟩
  · obtain ⟨harg, -⟩ | ⟨-, -, rfl⟩ | ⟨-, -, hinv, rfl⟩ := execStamp_next.1 h
    · exact absurd rfl harg
    · exact absurd ht (by simp)
    · exact execCheck_eq_three_iff.2 (passesCheck_stamped hinv)
  · have hpass : PassesCheck s.pkt := execCheck_eq_three_iff.1 hs
    rw [exec_eq_execFor] at h
    refine execCheck_eq_three_iff.2 ?_
    obtain ⟨e, -, rfl⟩ | ⟨u, hu, rfl⟩ := execFor_next h
    · exact hpass
    · exact hu.passesCheck hpass hwrf hnew hdecode
  · rw [crc8_concat]
    exact crc8Step_eq_zero

end Sys2Proof.Machine
end

section
/-! PROOFS. Reply construction (`spec/43_reply.md` R180 to R190): the cases of ADDRESP, what REPLY reads and what it
leaves, and the packets that LC admits outside BUILT. -/

namespace Sys2Proof.Machine

/-! ### ADDRESP -/

/-- Settles O29, by the three cases of ADDRESP's inversion lemma. -/
theorem addrespAttachesIbuf : Obligations.AddrespAttachesIbuf := by
  refine ⟨rfl, fun s hlc hpt hmax => ?_, fun s hcap hbad => ?_, fun _ _ harg => addrespOp_next.2 (.inl ⟨harg, rfl⟩)⟩
  · have hcap : s.ibuf.length ≤ Config.params.cap := hmax.trans (by decide)
    exact addrespOp_next.2 (.inr (.inr ⟨rfl, hlc, hpt, hcap, hmax, rfl⟩))
  · refine addrespOp_next.2 (.inr (.inl ⟨rfl, ?_, rfl⟩))
    obtain hlc | hlc | hpt | hmax := hbad
    · exact .inl (by simp [hlc])
    · exact .inl (by simp [hlc])
    · exact .inr (.inl hpt)
    · exact .inr (.inr ⟨hcap, hmax⟩)

/-! ### REPLY again, and with another status -/

/-- A REPLY that completes has passed every check, and its writes are OBUF and LC (R182). -/
theorem replyOp_completed {p : Params} {c : Byte} {s t : State} (h : replyOp p c s = .next t) (herr : t.err = 0) :
    s.lc ≠ .built ∧ s.pkt.packetType = ptCommand ∧ c ∈ p.statusValid ∧
      (replyBytes s.pkt s.respData c).length ≤ p.cap ∧
      t = done ((s.setLc .replied).setObuf (replyBytes s.pkt s.respData c)) := by
  obtain ⟨-, rfl⟩ | ⟨-, -, -, rfl⟩ | hdone := replyOp_next.1 h
  · simp at herr
  · simp at herr
  · exact hdone

theorem replyOp_keeps_pkt_respData {p : Params} {c : Byte} {s t : State} (h : replyOp p c s = .next t) :
    t.pkt = s.pkt ∧ t.respData = s.respData := by
  obtain ⟨-, rfl⟩ | ⟨-, -, -, rfl⟩ | ⟨-, -, -, -, rfl⟩ := replyOp_next.1 h <;> exact ⟨rfl, rfl⟩

/-- R186: after a completed REPLY, one that completed from the same start ends as it did there: LC = REPLIED allows it
too, and it reads nothing else that the first one wrote. -/
theorem replyOp_after_completed {p : Params} {c c' : Byte} {s t u : State} (ht : replyOp p c s = .next t)
    (hterr : t.err = 0) (hu : replyOp p c' s = .next u) (huerr : u.err = 0) : replyOp p c' t = .next u := by
  obtain ⟨-, -, -, -, rfl⟩ := replyOp_completed ht hterr
  obtain ⟨-, hpt, hc, hcap, rfl⟩ := replyOp_completed hu huerr
  exact replyOp_next.2 (.inr (.inr ⟨by simp, hpt, hc, hcap, rfl⟩))

/-- An error leaves what its check read, so it is raised again; a completed REPLY is `replyOp_after_completed`. -/
theorem replyOp_idempotent {p : Params} {c : Byte} {s t : State} (h : replyOp p c s = .next t) :
    replyOp p c t = .next t := by
  obtain ⟨hstate, rfl⟩ | ⟨hlc, hpt, hc, rfl⟩ | ⟨-, -, -, -, rfl⟩ := replyOp_next.1 h
  · exact replyOp_next.2 (.inl ⟨hstate, rfl⟩)
  · exact replyOp_next.2 (.inr (.inl ⟨hlc, hpt, hc, rfl⟩))
  · exact replyOp_after_completed h rfl h rfl

/-- Settles O33: a repetition by `replyOp_idempotent` and `replyOp_after_completed`, and the bytes of a completed REPLY
are `replyBytes` of PKT, RB and the status. -/
theorem replyIsIdempotent : Obligations.ReplyIsIdempotent := by
  refine ⟨fun c s t h => replyOp_idempotent h, fun c s t h => replyOp_keeps_pkt_respData h,
    fun c c' s t u ht hterr hu huerr => replyOp_after_completed ht hterr hu huerr,
    fun c s s' t t' hpkt hresp h herr h' herr' => ?_⟩
  obtain ⟨-, -, -, -, rfl⟩ := replyOp_completed h herr
  obtain ⟨-, -, -, -, rfl⟩ := replyOp_completed h' herr'
  change replyBytes s'.pkt s'.respData c = replyBytes s.pkt s.respData c
  rw [hpkt, hresp]

/-! ### The command's own payload -/

/-- The state with another payload and payload CRC in PKT. -/
def State.setPayload (s : State) (d : Bytes) (c : Byte) : State :=
  s.setPkt { s.pkt with data := d, dataCrc := c }

/-- R181: no reply layout holds the command's payload. -/
theorem replyBytes_setPayload (s : State) (d : Bytes) (c : Byte) (resp : Bytes) (status : Byte) :
    replyBytes (s.setPayload d c).pkt resp status = replyBytes s.pkt resp status := rfl

theorem replyOp_setPayload {p : Params} {x : Byte} {s t : State} (h : replyOp p x s = .next t) (d : Bytes) (c : Byte) :
    replyOp p x (s.setPayload d c) = .next (t.setPayload d c) := by
  obtain ⟨hstate, rfl⟩ | ⟨hlc, hpt, hx, rfl⟩ | ⟨hlc, hpt, hx, hcap, rfl⟩ := replyOp_next.1 h
  · exact replyOp_next.2 (.inl ⟨hstate, rfl⟩)
  · exact replyOp_next.2 (.inr (.inl ⟨hlc, hpt, hx, rfl⟩))
  · refine replyOp_next.2 (.inr (.inr ⟨hlc, hpt, hx, ?_, ?_⟩)) <;> rw [replyBytes_setPayload]
    · exact hcap
    · rfl

theorem addrespOp_setPayload {p : Params} {x : Byte} {s t : State} (h : addrespOp p x s = .next t) (d : Bytes)
    (c : Byte) : addrespOp p x (s.setPayload d c) = .next (t.setPayload d c) := by
  obtain ⟨hx, rfl⟩ | ⟨hx, hbad, rfl⟩ | ⟨hx, hlc, hpt, hcap, hmax, rfl⟩ := addrespOp_next.1 h
  · exact addrespOp_next.2 (.inl ⟨hx, rfl⟩)
  · exact addrespOp_next.2 (.inr (.inl ⟨hx, hbad, rfl⟩))
  · exact addrespOp_next.2 (.inr (.inr ⟨hx, hlc, hpt, hcap, hmax, rfl⟩))

theorem addrespOp_keeps_pkt {p : Params} {x : Byte} {s t : State} (h : addrespOp p x s = .next t) : t.pkt = s.pkt := by
  obtain ⟨-, rfl⟩ | ⟨-, -, rfl⟩ | ⟨-, -, -, -, -, rfl⟩ := addrespOp_next.1 h <;> rfl

/-- Settles O34: REPLY and ADDRESP keep PKT, and each case of theirs goes through with another payload. -/
theorem replyNeverReadsThePayload : Obligations.ReplyNeverReadsThePayload := by
  rintro i s t d c (⟨x, rfl⟩ | ⟨x, rfl⟩) h
  · exact ⟨(replyOp_keeps_pkt_respData h).1, replyOp_setPayload h d c⟩
  · exact ⟨addrespOp_keeps_pkt h, addrespOp_setPayload h d c⟩

/-! ### Packets outside BUILT -/

/-- R30, R190: outside BUILT, `t` holds the packet that `s` held outside BUILT, or one that DECODE loads. -/
def OutsideBuiltKeptOrDecoded (p : Params) (s t : State) : Prop :=
  t.lc ≠ .built → (s.lc ≠ .built ∧ t.pkt = s.pkt) ∨ Decodable p.logicalAddrMin t.pkt

theorem outsideBuiltKeptOrDecoded_of_same {p : Params} {s t : State} (hlc : t.lc = s.lc) (hpkt : t.pkt = s.pkt) :
    OutsideBuiltKeptOrDecoded p s t :=
  fun hne => .inl ⟨hlc ▸ hne, hpkt⟩

/-- DECODE loads a decodable packet, NEW, STAMP and WRF end in BUILT, and the others keep PKT; those of them that write
LC need a packet outside BUILT. -/
theorem Commits.outsideBuiltKeptOrDecoded {p : Params} {i : Instr} {s u : State} (h : Commits p s i u) :
    OutsideBuiltKeptOrDecoded p s u := by
  cases h with
  | decode _ hparse => exact fun _ => .inr (parseCommand_ok hparse).1
  | addresp hlc => exact fun _ => .inl ⟨by rcases hlc with h | h <;> simp [h], rfl⟩
  | reply hlc => exact fun _ => .inl ⟨hlc, rfl⟩
  | new => exact fun hne => absurd rfl hne
  | stamp hlc | wrfScalar hlc | wrfSeq hlc => exact fun hne => absurd hlc hne
  | crc8 | encode | check | rdfScalar | rdfSeq => exact outsideBuiltKeptOrDecoded_of_same rfl rfl

theorem execFor_outsideBuiltKeptOrDecoded {p : Params} {i : Instr} {s t : State} (h : execFor p i s = .next t) :
    OutsideBuiltKeptOrDecoded p s t := by
  obtain ⟨e, -, rfl⟩ | ⟨u, hu, rfl⟩ := execFor_next h
  · exact outsideBuiltKeptOrDecoded_of_same rfl rfl
  · exact hu.outsideBuiltKeptOrDecoded

theorem issue_outsideBuiltKeptOrDecoded {p : Params} {w : Half} {s t : State}
    (h : issue (execFor p) w s = .next t) : OutsideBuiltKeptOrDecoded p s t := by
  by_cases hw : ∃ i, decode w = .ok i
  · obtain ⟨i, hi⟩ := hw
    exact execFor_outsideBuiltKeptOrDecoded (issue_of_decode_ok hi s ▸ h)
  · rw [issue_of_decode_ne_ok hw] at h
    obtain rfl := raise_eq_next.1 h
    exact outsideBuiltKeptOrDecoded_of_same rfl rfl

theorem hostAction_outsideBuiltKeptOrDecoded {p : Params} {a : HostAction} {s t : State}
    (h : hostAction p (execFor p) a s = .next t) : OutsideBuiltKeptOrDecoded p s t := by
  cases a with
  | cmd w => exact issue_outsideBuiltKeptOrDecoded h
  | ibuf b =>
    obtain ⟨-, rfl⟩ := hostIbuf_eq_next.1 h
    exact outsideBuiltKeptOrDecoded_of_same rfl rfl
  | din v =>
    cases h
    exact outsideBuiltKeptOrDecoded_of_same rfl rfl
  | reset =>
    cases h
    exact fun hne => absurd rfl hne

theorem stepFor_outsideBuiltKeptOrDecoded {p : Params} {s t : State} (h : stepFor p s = .next t) :
    OutsideBuiltKeptOrDecoded p s t := by
  rcases hpend : s.pending with _ | ⟨a, rest⟩
  · rw [stepFor, hostStep_idle hpend] at h
    cases h
    exact outsideBuiltKeptOrDecoded_of_same rfl rfl
  · rw [stepFor, hostStep_cons hpend] at h
    exact hostAction_outsideBuiltKeptOrDecoded (s := s.setPending rest) h

/-- Settles O36: a packet outside BUILT is the one the step found there, or it was decoded. -/
theorem decodedPacketKeepsItsLengths : Obligations.DecodedPacketKeepsItsLengths := by
  intro s t hs h hlc
  rw [step_eq_stepFor] at h
  obtain ⟨hslc, hpkt⟩ | hdecodable := stepFor_outsideBuiltKeptOrDecoded h hlc
  · exact hpkt ▸ hs hslc
  · exact inv_of_decodable hdecodable

end Sys2Proof.Machine
end

section
/-! PROOFS. Packet construction and field access (`spec/44_field_access.md` R210 to R219): what NEW, RDF and WRF do,
and what RDF reads after a WRF. -/

namespace Sys2Proof.Machine

/-! ### NEW -/

/-- Settles O37, by the two cases of NEW's inversion lemma. -/
theorem newLoadsTheEmptyPacket : Obligations.NewLoadsTheEmptyPacket :=
  ⟨rfl, fun _ => execNew_next.2 (.inr ⟨rfl, rfl⟩), fun _ _ harg => execNew_next.2 (.inl ⟨harg, rfl⟩)⟩

/-! ### RDF -/

/-- A scalar goes to DOUT zero-extended (R55, R211): DOUT takes the word with the scalar's value. -/
theorem rdfOp_scalar {p : Params} {s : State} {f : Field} {w : Nat} {x : BitVec w} {v : Word}
    (hread : readField s f = .scalar (x.setWidth 32)) (hw : w ≤ 32) (hv : v.toNat = x.toNat) :
    rdfOp p (fieldId f) s = .next (done (s.setDout v)) := by
  have hx : x.setWidth 32 = v := BitVec.eq_of_toNat_eq (by rw [BitVec.toNat_setWidth_of_le hw, hv])
  exact rdfOp_next.2 (.inr (.inl ⟨f, v, fieldOfId_fieldId f, hx ▸ hread, rfl⟩))

theorem rdfOp_seq {p : Params} {s : State} {f : Field} {b : Bytes} (hread : readField s f = .seq b)
    (hcap : b.length ≤ p.cap) :
    rdfOp p (fieldId f) s = .next (done ((s.setDout (BitVec.ofNat 32 b.length)).setObuf b)) :=
  rdfOp_next.2 (.inr (.inr ⟨f, b, fieldOfId_fieldId f, hread, hcap, rfl⟩))

theorem toNat_pack (pt : BitVec 2) (cmd : BitVec 4) (sal : BitVec 2) :
    (pack pt cmd sal).toNat = pt.toNat * 64 + cmd.toNat * 4 + sal.toNat := by
  rw [pack_eq_append, toNat_instruction_append]

/-- Settles O38: each row is a scalar or a sequence that `readField` gives for the row's field. -/
theorem rdfReadsEveryField : Obligations.RdfReadsEveryField := by
  refine ⟨fun s v row hrow hv => ?_, fun s row hrow hcap => ?_,
    fun f s hf => rdfOp_next.2 (.inl ⟨fieldOfId_eq_none.2 hf, rfl⟩)⟩ <;>
    simp only [List.mem_cons, List.not_mem_nil, or_false] at hrow
  · change rdfOp Config.params row.1 s = _
    rcases hrow with rfl | rfl | rfl | rfl | rfl | rfl | rfl | rfl | rfl | rfl | rfl | rfl | rfl | rfl
    exacts [rdfOp_scalar (f := .scalar .destLa) rfl (by decide) hv,
      rdfOp_scalar (f := .scalar .packetType) rfl (by decide) hv,
      rdfOp_scalar (f := .scalar .command) rfl (by decide) hv,
      rdfOp_scalar (f := .scalar .srcAddrLen) rfl (by decide) hv,
      rdfOp_scalar (f := .scalar .destKey) rfl (by decide) hv,
      rdfOp_scalar (f := .scalar .srcLa) rfl (by decide) hv,
      rdfOp_scalar (f := .scalar .tid) rfl (by decide) hv,
      rdfOp_scalar (f := .scalar .extAddr) rfl (by decide) hv,
      rdfOp_scalar (f := .scalar .memAddr) rfl (by decide) hv,
      rdfOp_scalar (f := .scalar .dataLen) rfl (by decide) hv,
      rdfOp_scalar (f := .scalar .headerCrc) rfl (by decide) hv,
      rdfOp_scalar (f := .scalar .dataCrc) rfl (by decide) hv,
      rdfOp_scalar (f := .protocolId) rfl (by decide) hv,
      rdfOp_scalar (f := .instruction) rfl (by decide) (hv.trans (toNat_pack ..).symm)]
  · rcases hrow with rfl | rfl | rfl | rfl
    exacts [rdfOp_seq (f := .seq .destPath) rfl hcap, rdfOp_seq (f := .seq .srcPath) rfl hcap,
      rdfOp_seq (f := .seq .data) rfl hcap, rdfOp_seq (f := .respData) rfl hcap]

/-! ### WRF -/

section Write

variable {p : Params} {s : State}

/-- R214, R216: in BUILT a scalar is stored where DIN is below 2^width. -/
theorem wrfOp_scalar (hlc : s.lc = .built) (x : ScalarField) :
    wrfOp p (scalarId x) s = .next (if s.din.toNat < 2 ^ scalarWidth x then done (s.setPkt (setScalar s.pkt x s.din))
      else failed s 4) := by
  refine wrfOp_next.2 (.inr (.inr (.inl ⟨hlc, x, fieldOfId_fieldId (.scalar x), ?_⟩)))
  split_ifs with hfits
  · exact .inr ⟨decide_eq_true hfits, rfl⟩
  · exact .inl ⟨decide_eq_false hfits, rfl⟩

/-- R214, R215: in BUILT a sequence is copied where it fits. -/
theorem wrfOp_seq (hlc : s.lc = .built) (hcap : s.ibuf.length ≤ p.cap) (q : SeqField) {c : Prop} [Decidable c]
    (hc : seqFits q s.ibuf = decide c) :
    wrfOp p (seqId q) s = .next (if c then done (s.setPkt (setSeq s.pkt q s.ibuf)) else failed s 4) := by
  refine wrfOp_next.2 (.inr (.inr (.inr ⟨hlc, q, fieldOfId_fieldId (.seq q), hcap, ?_⟩)))
  split_ifs with hfits
  · exact .inr ⟨hc.trans (decide_eq_true hfits), rfl⟩
  · exact .inl ⟨hc.trans (decide_eq_false hfits), rfl⟩

end Write

/-- The scalar fields in the order of their ids (R88). -/
def scalarFields : List ScalarField :=
  [.destLa, .packetType, .command, .srcAddrLen, .destKey, .srcLa, .tid, .extAddr, .memAddr, .dataLen, .headerCrc,
    .dataCrc]

/-- Settles O39: the rows are the id, the width and the write of each scalar field. -/
theorem wrfStoresScalarsThatFit : Obligations.WrfStoresScalarsThatFit := by
  intro s hlc row hrow
  obtain ⟨x, -, rfl⟩ : ∃ x ∈ scalarFields, (scalarId x, scalarWidth x, setScalar s.pkt x s.din) = row :=
    List.mem_map.1 hrow
  exact wrfOp_scalar hlc x

/-- Settles O40, field by field; `dest_path_addr` fits at every length. -/
theorem wrfCopiesSequencesThatFit : Obligations.WrfCopiesSequencesThatFit :=
  fun _ hlc hcap => ⟨wrfOp_seq hlc hcap .destPath (c := True) rfl, wrfOp_seq hlc hcap .srcPath rfl,
    wrfOp_seq hlc hcap .data rfl⟩

/-- Settles O41: the ids up to 14 are those of the writable fields. -/
theorem wrfIsOnlyForPacketsUnderConstruction : Obligations.WrfIsOnlyForPacketsUnderConstruction := by
  refine fun f s => ⟨fun hf => ?_, fun hf hlc => wrfOp_next.2 (.inr (.inl ⟨exists_writable_iff.2 hf, hlc, rfl⟩))⟩
  have hreadOnly : ∀ fld, fieldOfId f = some fld → ¬ Writable fld :=
    fun fld hfld hw => absurd (exists_writable_iff.1 ⟨fld, hfld, hw⟩) (Nat.not_le.2 hf)
  exact wrfOp_next.2 (.inl ⟨hreadOnly, rfl⟩)

/-! ### RDF after WRF -/

/-- A WRF that completes has stored a scalar that fits, or a sequence (R214). -/
theorem wrfOp_completed {p : Params} {fid : Byte} {s t : State} (h : wrfOp p fid s = .next t) (herr : t.err = 0) :
    (∃ x, fieldOfId fid = some (.scalar x) ∧ scalarFits x s.din = true ∧
      t = done (s.setPkt (setScalar s.pkt x s.din))) ∨
    ∃ q, fieldOfId fid = some (.seq q) ∧ t = done (s.setPkt (setSeq s.pkt q s.ibuf)) := by
  obtain ⟨-, rfl⟩ | ⟨-, -, rfl⟩ | ⟨-, x, hx, ⟨-, rfl⟩ | ⟨hfits, rfl⟩⟩ | ⟨-, q, hq, -, ⟨-, rfl⟩ | ⟨-, rfl⟩⟩ :=
    wrfOp_next.1 h
  case inr.inr.inl.inr => exact .inl ⟨x, hx, hfits, rfl⟩
  case inr.inr.inr.inr => exact .inr ⟨q, hq, rfl⟩
  all_goals simp at herr

/-- R218: storing a scalar leaves every other field, but for the instruction byte that three scalars make up. -/
theorem readField_setScalar_ne {s : State} {x : ScalarField} {g : Field} (hne : g ≠ .scalar x)
    (hins : g ≠ .instruction) (v : Word) : readField (done (s.setPkt (setScalar s.pkt x v))) g = readField s g := by
  cases g with
  | scalar y => exact congrArg Value.scalar (getScalar_setScalar_ne (fun hy => hne (congrArg _ hy)) s.pkt v)
  | seq q => exact congrArg Value.seq (getSeq_setScalar s.pkt x q v)
  | protocolId | respData => rfl
  | instruction => exact absurd rfl hins

/-- R218: storing a sequence leaves every other field. -/
theorem readField_setSeq_ne {s : State} {q : SeqField} {g : Field} (hne : g ≠ .seq q) (b : Bytes) :
    readField (done (s.setPkt (setSeq s.pkt q b))) g = readField s g := by
  cases g with
  | scalar y => exact congrArg Value.scalar (getScalar_setSeq s.pkt q y b)
  | seq r => exact congrArg Value.seq (getSeq_setSeq_ne (fun hr => hne (congrArg _ hr)) s.pkt b)
  | protocolId | respData => rfl
  | instruction => cases q <;> rfl

theorem ne_of_fieldOfId {a b : Byte} {f g : Field} (hne : a ≠ b) (ha : fieldOfId a = some f)
    (hb : fieldOfId b = some g) : f ≠ g := by
  rintro rfl
  exact hne (fieldOfId_inj ha hb)

/-- Settles O42: a completed WRF has stored one scalar or one sequence, and another id names another field. -/
theorem writtenFieldReadsBackAlone : Obligations.WrittenFieldReadsBackAlone := by
  intro f s t h herr
  obtain ⟨x, hf, hfits, rfl⟩ | ⟨q, hf, rfl⟩ := wrfOp_completed h herr
  · refine ⟨fun fld hfld => ?_, fun g fld hg hfld hins => ?_⟩
    · obtain rfl : Field.scalar x = fld := Option.some.inj (hf.symm.trans hfld)
      exact ⟨fun _ _ => congrArg Value.scalar (getScalar_setScalar hfits s.pkt), nofun⟩
    · exact readField_setScalar_ne (ne_of_fieldOfId hg hfld hf) hins s.din
  · refine ⟨fun fld hfld => ?_, fun g fld hg hfld _ => ?_⟩
    · obtain rfl : Field.seq q = fld := Option.some.inj (hf.symm.trans hfld)
      exact ⟨nofun, fun _ _ => congrArg Value.seq (getSeq_setSeq s.pkt q s.ibuf)⟩
    · exact readField_setSeq_ne (ne_of_fieldOfId hg hfld hf) s.ibuf

end Sys2Proof.Machine
end

section
/-! PROOFS. Errors (`spec/60_exceptions.md` R240 to R249): what raises each error and what an error changes, with what
RDF shows of the packet (R255). -/

namespace Sys2Proof.Machine

/-! ### The causes of each error -/

/-- The operations of format N (R85), with the ARG byte `a`. -/
def formatN (a : Byte) : List Instr :=
  [.crc8 a, .decode a, .encode a, .stamp a, .check a, .addresp a, .new a]

/-- The causes of R241 to R244, each with the checks that its operation's pseudocode makes before it (R248). -/
inductive Raises (p : Params) (s : State) : Instr → ErrKind → Prop where
  | malformed {f} (hcap : s.ibuf.length ≤ p.cap)
      (hparse : parseCommand p.logicalAddrMin s.ibuf = .error (.malformedPacket f)) :
      Raises p s (.decode 0) (.malformedPacket f)
  | encodeInv (hinv : inv s.pkt = false) : Raises p s (.encode 0) .invalidPacketState
  | stampInv (hinv : inv s.pkt = false) : Raises p s (.stamp 0) .invalidPacketState
  | stampLc (hlc : s.lc ≠ .built) : Raises p s (.stamp 0) .invalidPacketState
  | checkInv (hinv : inv s.pkt = false) : Raises p s (.check 0) .invalidPacketState
  | wrfLc {f} (hf : f.toNat ≤ 14) (hlc : s.lc ≠ .built) : Raises p s (.wrf f) .invalidPacketState
  | addresp (hbad : (s.lc ≠ .decoded ∧ s.lc ≠ .respPending) ∨ s.pkt.packetType ≠ ptCommand ∨
      (s.ibuf.length ≤ p.cap ∧ maxDataLen < s.ibuf.length)) : Raises p s (.addresp 0) .invalidPacketState
  | replyState {c} (hbad : s.lc = .built ∨ s.pkt.packetType ≠ ptCommand) : Raises p s (.reply c) .invalidPacketState
  | replyStatus {c} (hlc : s.lc ≠ .built) (hpt : s.pkt.packetType = ptCommand) (hc : c ∉ p.statusValid) :
      Raises p s (.reply c) .invalidStatus
  | arg {a i} (ha : a ≠ 0) (hi : i ∈ formatN a) : Raises p s i .illegalOperation
  | rdfId {f} (hf : 17 < f.toNat) : Raises p s (.rdf f) .illegalOperation
  | wrfId {f} (hf : 14 < f.toNat) : Raises p s (.wrf f) .illegalOperation
  | wrfScalar {x} (hlc : s.lc = .built) (hbig : 2 ^ scalarWidth x ≤ s.din.toNat) :
      Raises p s (.wrf (scalarId x)) .illegalOperation
  | wrfSeq {q} (hlc : s.lc = .built) (hcap : s.ibuf.length ≤ p.cap) (hbig : seqFits q s.ibuf = false) :
      Raises p s (.wrf (seqId q)) .illegalOperation

section Causes

variable {p : Params} {i : Instr} {e : ErrKind} {s t : State}

/-- Each cause is enough: the operation writes ERR and ERR_FIELD, and nothing else (R245, R246). -/
theorem Raises.execFor_eq (h : Raises p s i e) : execFor p i s = .next (s.setErr (errCode e) (errInfo e)) := by
  cases h with
  | malformed hcap hparse => exact decodeOp_next.2 (.inr ⟨rfl, hcap, .inl ⟨_, hparse, rfl⟩⟩)
  | encodeInv hinv => exact encodeOp_next.2 (.inr (.inl ⟨rfl, hinv, rfl⟩))
  | stampInv hinv => exact execStamp_next.2 (.inr (.inl ⟨rfl, .inr hinv, rfl⟩))
  | stampLc hlc => exact execStamp_next.2 (.inr (.inl ⟨rfl, .inl hlc, rfl⟩))
  | checkInv hinv => exact execCheck_next.2 (.inr (.inl ⟨rfl, hinv, rfl⟩))
  | wrfLc hf hlc => exact wrfOp_next.2 (.inr (.inl ⟨exists_writable_iff.2 hf, hlc, rfl⟩))
  | addresp hbad => exact addrespOp_next.2 (.inr (.inl ⟨rfl, hbad, rfl⟩))
  | replyState hbad => exact replyOp_next.2 (.inl ⟨hbad, rfl⟩)
  | replyStatus hlc hpt hc => exact replyOp_next.2 (.inr (.inl ⟨hlc, hpt, hc, rfl⟩))
  | arg ha hi =>
    simp only [formatN, List.mem_cons, List.not_mem_nil, or_false] at hi
    rcases hi with rfl | rfl | rfl | rfl | rfl | rfl | rfl
    all_goals exact withNoArg_ne ha s _
  | rdfId hf => exact rdfOp_next.2 (.inl ⟨fieldOfId_eq_none.2 hf, rfl⟩)
  | wrfId hf =>
    refine wrfOp_next.2 (.inl ⟨fun f hfid hw => ?_, rfl⟩)
    exact absurd (exists_writable_iff.1 ⟨f, hfid, hw⟩) (Nat.not_le.2 hf)
  | @wrfScalar x hlc hbig =>
    refine wrfOp_next.2 (.inr (.inr (.inl ⟨hlc, x, fieldOfId_fieldId (.scalar x), .inl ⟨?_, rfl⟩⟩)))
    exact decide_eq_false (Nat.not_lt.2 hbig)
  | @wrfSeq q hlc hcap hbig =>
    exact wrfOp_next.2 (.inr (.inr (.inr ⟨hlc, q, fieldOfId_fieldId (.seq q), hcap, .inl ⟨hbig, rfl⟩⟩)))

/-- There are no other causes: an operation that answers completes, or has one of them. -/
theorem execFor_completes_or_raises (h : execFor p i s = .next t) :
    (t.err = 0 ∧ t.errField = 0xFF) ∨ ∃ e, Raises p s i e ∧ t = s.setErr (errCode e) (errInfo e) := by
  cases i with
  | crc8 a =>
    obtain ⟨ha, rfl⟩ | ⟨-, -, rfl⟩ := crc8Op_next.1 h
    exacts [.inr ⟨_, .arg ha (by simp [formatN]), rfl⟩, .inl ⟨rfl, rfl⟩]
  | decode a =>
    obtain ⟨ha, rfl⟩ | ⟨rfl, hcap, ⟨e, hparse, rfl⟩ | ⟨P, rest, -, rfl⟩⟩ := decodeOp_next.1 h
    · exact .inr ⟨_, .arg ha (by simp [formatN]), rfl⟩
    · obtain ⟨f, rfl, -⟩ := failsAsDecode_parseCommand _ _ e hparse
      exact .inr ⟨_, .malformed hcap hparse, rfl⟩
    · exact .inl ⟨rfl, rfl⟩
  | encode a =>
    obtain ⟨ha, rfl⟩ | ⟨rfl, hinv, rfl⟩ | ⟨-, -, -, rfl⟩ := encodeOp_next.1 h
    exacts [.inr ⟨_, .arg ha (by simp [formatN]), rfl⟩, .inr ⟨_, .encodeInv hinv, rfl⟩, .inl ⟨rfl, rfl⟩]
  | stamp a =>
    obtain ⟨ha, rfl⟩ | ⟨rfl, hlc | hinv, rfl⟩ | ⟨-, -, -, rfl⟩ := execStamp_next.1 h
    exacts [.inr ⟨_, .arg ha (by simp [formatN]), rfl⟩, .inr ⟨_, .stampLc hlc, rfl⟩, .inr ⟨_, .stampInv hinv, rfl⟩,
      .inl ⟨rfl, rfl⟩]
  | check a =>
    obtain ⟨ha, rfl⟩ | ⟨rfl, hinv, rfl⟩ | ⟨-, -, rfl⟩ := execCheck_next.1 h
    exacts [.inr ⟨_, .arg ha (by simp [formatN]), rfl⟩, .inr ⟨_, .checkInv hinv, rfl⟩, .inl ⟨rfl, rfl⟩]
  | addresp a =>
    obtain ⟨ha, rfl⟩ | ⟨rfl, hbad, rfl⟩ | ⟨-, -, -, -, -, rfl⟩ := addrespOp_next.1 h
    exacts [.inr ⟨_, .arg ha (by simp [formatN]), rfl⟩, .inr ⟨_, .addresp hbad, rfl⟩, .inl ⟨rfl, rfl⟩]
  | reply c =>
    obtain ⟨hbad, rfl⟩ | ⟨hlc, hpt, hc, rfl⟩ | ⟨-, -, -, -, rfl⟩ := replyOp_next.1 h
    exacts [.inr ⟨_, .replyState hbad, rfl⟩, .inr ⟨_, .replyStatus hlc hpt hc, rfl⟩, .inl ⟨rfl, rfl⟩]
  | new a =>
    obtain ⟨ha, rfl⟩ | ⟨-, rfl⟩ := execNew_next.1 h
    exacts [.inr ⟨_, .arg ha (by simp [formatN]), rfl⟩, .inl ⟨rfl, rfl⟩]
  | rdf fid =>
    obtain ⟨hf, rfl⟩ | ⟨f, v, -, -, rfl⟩ | ⟨f, b, -, -, -, rfl⟩ := rdfOp_next.1 h
    exacts [.inr ⟨_, .rdfId (fieldOfId_eq_none.1 hf), rfl⟩, .inl ⟨rfl, rfl⟩, .inl ⟨rfl, rfl⟩]
  | wrf fid =>
    obtain ⟨hro, rfl⟩ | ⟨hw, hlc, rfl⟩ | ⟨hlc, x, hx, ⟨hbig, rfl⟩ | ⟨-, rfl⟩⟩ |
      ⟨hlc, q, hq, hcap, ⟨hbig, rfl⟩ | ⟨-, rfl⟩⟩ := wrfOp_next.1 h
    · refine .inr ⟨_, .wrfId (Nat.not_le.1 fun hle => ?_), rfl⟩
      obtain ⟨f, hf, hw⟩ := exists_writable_iff.2 hle
      exact hro f hf hw
    · exact .inr ⟨_, .wrfLc (exists_writable_iff.1 hw) hlc, rfl⟩
    · obtain rfl := fieldOfId_eq_some.1 hx
      exact .inr ⟨_, .wrfScalar hlc (Nat.not_lt.1 (of_decide_eq_false hbig)), rfl⟩
    · exact .inl ⟨rfl, rfl⟩
    · obtain rfl := fieldOfId_eq_some.1 hq
      exact .inr ⟨_, .wrfSeq hlc hcap hbig, rfl⟩
    · exact .inl ⟨rfl, rfl⟩

/-- ERR holds a code exactly when an error of that code has a cause. -/
theorem err_eq_iff_exists_raises (h : execFor p i s = .next t) {c : Byte} (hc : c ≠ 0) :
    t.err = c ↔ ∃ e, Raises p s i e ∧ errCode e = c := by
  constructor
  · rintro rfl
    obtain ⟨hdone, -⟩ | ⟨e, he, rfl⟩ := execFor_completes_or_raises h
    · exact absurd hdone hc
    · exact ⟨e, he, rfl⟩
  · rintro ⟨e, he, rfl⟩
    rw [he.execFor_eq] at h
    cases h
    rfl

/-- The code of an error other than MalformedPacket is its own. -/
theorem errCode_inj {e e' : ErrKind} (he : ∀ f, e ≠ .malformedPacket f) : errCode e' = errCode e ↔ e' = e := by
  refine ⟨fun h => ?_, fun h => h ▸ rfl⟩
  cases e with
  | malformedPacket f => exact absurd rfl (he f)
  | invalidPacketState | invalidStatus | illegalOperation => cases e' <;> simp at h ⊢

theorem err_eq_errCode_iff (h : execFor p i s = .next t) (he : ∀ f, e ≠ .malformedPacket f) :
    t.err = errCode e ↔ Raises p s i e := by
  simp only [err_eq_iff_exists_raises h (errCode_ne_zero e), errCode_inj he, exists_eq_right]

end Causes

/-- Settles O45: an operation that fails has raised an error, which writes ERR and ERR_FIELD only. -/
theorem failedOperationChangesOnlyErr : Obligations.FailedOperationChangesOnlyErr := by
  intro i s t h herr
  rw [exec_eq_execFor] at h
  obtain ⟨e, -, rfl⟩ | ⟨u, -, rfl⟩ := execFor_next h
  · rfl
  · exact absurd rfl herr

/-- In BUILT, a WRF of a sequence that answers has read an IBUF within CAP (R59). -/
theorem ibuf_le_cap_of_wrfOp {p : Params} {q : SeqField} {s t : State} (h : wrfOp p (seqId q) s = .next t)
    (hlc : s.lc = .built) : s.ibuf.length ≤ p.cap := by
  by_contra hcap
  have hrefused : wrfOp p (seqId q) s = .refused .capExceeded :=
    wrfOp_refused.2 ⟨rfl, namesSeq_iff.1 ⟨q, fieldOfId_fieldId (.seq q)⟩, hlc, Nat.not_le.1 hcap⟩
  rw [h] at hrefused
  cases hrefused

/-- Settles O47: the causes of `Raises`, with the capacity of each sequence field written out. -/
theorem illegalOperationHasTheseCauses : Obligations.IllegalOperationHasTheseCauses := by
  intro i s t h
  rw [exec_eq_execFor] at h
  refine (err_eq_errCode_iff (e := .illegalOperation) h nofun).trans ⟨fun hraises => ?_, ?_⟩
  · cases hraises with
    | arg ha hi => exact .inl ⟨_, ha, by simpa [formatN] using hi⟩
    | rdfId hf => exact .inr (.inl ⟨_, hf, rfl⟩)
    | wrfId hf => exact .inr (.inr (.inl ⟨_, hf, rfl⟩))
    | @wrfScalar x hlc hbig =>
      exact .inr (.inr (.inr (.inl ⟨hlc, _, x, rfl, fieldOfId_fieldId (.scalar x), hbig⟩)))
    | @wrfSeq q hlc _ hbig =>
      cases q with
      | destPath => cases hbig
      | srcPath => exact .inr (.inr (.inr (.inr (.inl ⟨hlc, rfl, Nat.not_le.1 (of_decide_eq_false hbig)⟩))))
      | data => exact .inr (.inr (.inr (.inr (.inr ⟨hlc, rfl, Nat.not_le.1 (of_decide_eq_false hbig)⟩))))
  · rintro (⟨a, ha, hi⟩ | ⟨f, hf, rfl⟩ | ⟨f, hf, rfl⟩ | ⟨hlc, f, x, rfl, hx, hbig⟩ | ⟨hlc, rfl, hbig⟩ |
      ⟨hlc, rfl, hbig⟩)
    · exact .arg ha (by simpa [formatN] using hi)
    · exact .rdfId hf
    · exact .wrfId hf
    · obtain rfl := fieldOfId_eq_some.1 hx
      exact .wrfScalar hlc hbig
    · exact .wrfSeq (q := .srcPath) hlc (ibuf_le_cap_of_wrfOp (q := .srcPath) h hlc)
        (decide_eq_false (Nat.not_le.2 hbig))
    · exact .wrfSeq (q := .data) hlc (ibuf_le_cap_of_wrfOp (q := .data) h hlc) (decide_eq_false (Nat.not_le.2 hbig))

/-- Settles O48: the causes of `Raises`; an ADDRESP that answers has read an IBUF within CAP or failed before. -/
theorem invalidPacketStateHasTheseCauses : Obligations.InvalidPacketStateHasTheseCauses := by
  intro i s t h
  rw [exec_eq_execFor] at h
  refine (err_eq_errCode_iff (e := .invalidPacketState) h nofun).trans ⟨fun hraises => ?_, ?_⟩
  · cases hraises with
    | encodeInv hinv => exact .inl ⟨.inl rfl, hinv⟩
    | stampInv hinv => exact .inl ⟨.inr (.inl rfl), hinv⟩
    | checkInv hinv => exact .inl ⟨.inr (.inr rfl), hinv⟩
    | stampLc hlc => exact .inr (.inl ⟨rfl, hlc⟩)
    | wrfLc hf hlc => exact .inr (.inr (.inl ⟨_, hf, rfl, hlc⟩))
    | addresp hbad => exact .inr (.inr (.inr (.inl ⟨rfl, hbad.imp_right (Or.imp_right And.right)⟩)))
    | replyState hbad => exact .inr (.inr (.inr (.inr ⟨_, rfl, hbad⟩)))
  · rintro (⟨rfl | rfl | rfl, hinv⟩ | ⟨rfl, hlc⟩ | ⟨f, hf, rfl, hlc⟩ | ⟨rfl, hbad⟩ | ⟨c, rfl, hbad⟩)
    · exact .encodeInv hinv
    · exact .stampInv hinv
    · exact .checkInv hinv
    · exact .stampLc hlc
    · exact .wrfLc hf hlc
    · obtain ⟨harg, -⟩ | ⟨-, hcause, -⟩ | ⟨-, hlc, hpt, -, hmax, -⟩ := addrespOp_next.1 h
      · exact absurd rfl harg
      · exact .addresp hcause
      · obtain ⟨hdecoded, hpending⟩ | hpt' | hmax' := hbad
        · exact absurd hlc (not_or.2 ⟨hdecoded, hpending⟩)
        · exact absurd hpt hpt'
        · exact absurd hmax (Nat.not_le.2 hmax')
    · exact .replyState hbad

/-- Settles O49: the one cause of `Raises`; an error leaves OBUF (R245). -/
theorem invalidStatusHasOneCause : Obligations.InvalidStatusHasOneCause := by
  intro i s t h
  have hobuf : t.err = 3 → t.obuf = s.obuf := fun herr =>
    by rw [failedOperationChangesOnlyErr i s t h (by simp [herr])]
  rw [exec_eq_execFor] at h
  refine ⟨(err_eq_errCode_iff (e := .invalidStatus) h nofun).trans ⟨fun hraises => ?_, ?_⟩, hobuf⟩
  · cases hraises with
    | replyStatus hlc hpt hc => exact ⟨_, rfl, hlc, hpt, hc⟩
  · rintro ⟨c, rfl, hlc, hpt, hc⟩
    exact .replyStatus hlc hpt hc

/-! ### MalformedPacket -/

/-- The reads do not run out of bytes (R123). -/
def Succeeds {α : Type} (x : Except ErrKind α) : Prop := ∃ a, x = .ok a

theorem Succeeds.needByte_bind {α : Type} {f : Field} {buf : Bytes} {k : Byte × Bytes → Except ErrKind α} (n : Nat)
    (hlen : n + 1 ≤ buf.length) (hk : ∀ b r, n ≤ r.length → Succeeds (k (b, r))) :
    Succeeds (needByte f buf >>= k) := by
  cases buf with
  | nil => simp at hlen
  | cons b r => exact hk b r (by simpa using hlen)

theorem Succeeds.need_bind {α : Type} {f : Field} {buf : Bytes} {m : Nat} {k : Bytes × Bytes → Except ErrKind α}
    (n : Nat) (hlen : n + m ≤ buf.length) (hk : ∀ a r, a.length = m → n ≤ r.length → Succeeds (k (a, r))) :
    Succeeds (need m f buf >>= k) := by
  have ha : (buf.take m).length = m := List.length_take_of_le (by omega)
  have hr : n ≤ (buf.drop m).length := by rw [List.length_drop]; omega
  rw [← List.take_append_drop m buf, need_append ha]
  exact hk _ _ ha hr

/-- With enough bytes after the path no read runs out of them: 19 bytes of fixed fields and source path, and at most
2^24 - 1 of data. -/
theorem parseCommand_succeeds {lam : Byte} {buf : Bytes} (h : 2 ^ 24 + 19 ≤ (afterPath lam buf).length) :
    Succeeds (parseCommand lam buf) := by
  have hdata {dl : Bytes} (hdl : dl.length = 3) : fromBe dl < 2 ^ 24 := by simpa [hdl] using fromBe_lt dl
  refine .needByte_bind (2 ^ 24 + 18) (by omega) fun _ _ h => .needByte_bind (2 ^ 24 + 17) h fun _ _ h =>
    .needByte_bind (2 ^ 24 + 16) h fun ib _ h => .needByte_bind (2 ^ 24 + 15) h fun _ _ h =>
    .need_bind (2 ^ 24 + 12) ?_ fun _ _ _ h => .needByte_bind (2 ^ 24 + 11) h fun _ _ h =>
    .need_bind (2 ^ 24 + 9) h fun _ _ _ h => .needByte_bind (2 ^ 24 + 8) h fun _ _ h =>
    .need_bind (2 ^ 24 + 4) h fun _ _ _ h => .need_bind (2 ^ 24 + 1) h fun dl _ hdl h =>
    .needByte_bind (2 ^ 24) h fun _ _ h => .need_bind 1 ?_ fun _ _ _ h => .needByte_bind 0 h fun _ _ _ => ⟨_, rfl⟩
  · have := (srcAddrLenBits ib).isLt
    omega
  · have := hdata hdl
    omega

/-- The path scan stops at the latest where bytes 0xFF begin (R122). -/
theorem le_length_afterPath_append_replicate (lam : Byte) (buf : Bytes) (n : Nat) :
    n ≤ (afterPath lam (buf ++ List.replicate n 0xFF)).length := by
  have hstop : ¬ 0xFF#8 < lam := by bv_omega
  rw [afterPath, List.dropWhile_append]
  split <;> simp [hstop]

/-- Every buffer is the beginning of one that parses. -/
theorem exists_parseCommand_append (lam : Byte) (buf : Bytes) : ∃ pad, Succeeds (parseCommand lam (buf ++ pad)) :=
  ⟨_, parseCommand_succeeds (le_length_afterPath_append_replicate lam buf _)⟩

/-- R241: a buffer that DECODE does not accept is a cut command packet. Completed, it parses as one, and that packet
does not end within the buffer, which would then parse too. -/
theorem exists_cut_of_parseCommand_error {lam : Byte} {buf : Bytes} {e : ErrKind}
    (h : parseCommand lam buf = .error e) : ∃ P pid, Decodable lam P ∧ buf.length < (commandLayout pid P).length ∧
      buf = (commandLayout pid P).take buf.length := by
  obtain ⟨pad, ⟨P, rest⟩, hok⟩ := exists_parseCommand_append lam buf
  obtain ⟨hP, pid, hlayout⟩ := parseCommand_ok hok
  have hbuf : buf <+: commandLayout pid P ++ rest := ⟨pad, hlayout⟩
  have hcmd : commandLayout pid P <+: commandLayout pid P ++ rest := ⟨rest, rfl⟩
  have hlt : buf.length < (commandLayout pid P).length := by
    by_contra hle
    obtain ⟨tail, rfl⟩ := List.prefix_of_prefix_length_le hcmd hbuf (Nat.not_lt.1 hle)
    rw [parseCommand_commandLayout hP] at h
    cases h
  exact ⟨P, pid, hP, hlt, List.prefix_iff_eq_take.1 (List.prefix_of_prefix_length_le hbuf hcmd hlt.le)⟩

/-- Settles O17: a DECODE that fails is given a cut command packet, for which it names the field cut into; no other
cause raises code 1. -/
theorem malformedPacketMeansTruncation : Obligations.MalformedPacketMeansTruncation := by
  refine ⟨fun s t (h : decodeOp Config.params 0 s = .next t) herr => ?_, fun i s t h herr => ?_⟩
  · obtain ⟨harg, -⟩ | ⟨-, hcap, ⟨e, hparse, -⟩ | ⟨P, rest, -, rfl⟩⟩ := decodeOp_next.1 h
    · exact absurd rfl harg
    · obtain ⟨P, pid, hP, hlt, hcut⟩ := exists_cut_of_parseCommand_error hparse
      have hdecode := execDecode_take_commandLayout hP hlt hcut hcap
      obtain rfl := Host.Outcome.next.inj (h.symm.trans hdecode)
      exact ⟨rfl, P, pid, _, hP, hlt, hcut, rfl⟩
    · exact absurd rfl herr
  · rw [exec_eq_execFor] at h
    obtain ⟨e, he, hcode⟩ := (err_eq_iff_exists_raises h (by decide)).1 herr
    cases he with
    | malformed => rfl
    | _ => simp at hcode

/-! ### The stored CRC bytes -/

/-- The state with other CRC bytes in PKT. -/
def State.setCrcs (s : State) (h d : Byte) : State :=
  s.setPkt { s.pkt with headerCrc := h, dataCrc := d }

/-- No cause reads a stored CRC byte. -/
theorem Raises.setCrcs {p : Params} {i : Instr} {e : ErrKind} {s : State} (hr : Raises p s i e) (h d : Byte) :
    Raises p (s.setCrcs h d) i e := by
  cases hr with
  | malformed hcap hparse => exact .malformed hcap hparse
  | encodeInv hinv => exact .encodeInv hinv
  | stampInv hinv => exact .stampInv hinv
  | stampLc hlc => exact .stampLc hlc
  | checkInv hinv => exact .checkInv hinv
  | wrfLc hf hlc => exact .wrfLc hf hlc
  | addresp hbad => exact .addresp hbad
  | replyState hbad => exact .replyState hbad
  | replyStatus hlc hpt hc => exact .replyStatus hlc hpt hc
  | arg ha hi => exact .arg ha hi
  | rdfId hf => exact .rdfId hf
  | wrfId hf => exact .wrfId hf
  | wrfScalar hlc hbig => exact .wrfScalar hlc hbig
  | wrfSeq hlc hcap hbig => exact .wrfSeq hlc hcap hbig

/-- No length that CAP bounds depends on a stored CRC byte (R59). -/
theorem execFor_refused_of_setCrcs {p : Params} {i : Instr} {s : State} {r : Refusal} {h d : Byte}
    (hr : execFor p i (s.setCrcs h d) = .refused r) : execFor p i s = .refused r := by
  rw [refusedExactlyBeyondCap, length_enc] at hr ⊢
  exact hr

/-- Settles O28: with other CRC bytes an operation answers too, and it raises the errors it has a cause for before and
after, since the first bytes are put back by the same change. -/
theorem storedCrcsNeverDecideAnError : Obligations.StoredCrcsNeverDecideAnError := by
  intro i s t h d ht
  change ∃ u, exec i (s.setCrcs h d) = .next u ∧ _
  rw [exec_eq_execFor] at ht ⊢
  obtain ⟨u, hu⟩ : ∃ u, execFor Config.params i (s.setCrcs h d) = .next u := by
    refine exists_next_of_ne_refused fun r hr => ?_
    rw [execFor_refused_of_setCrcs hr] at ht
    cases ht
  refine ⟨u, hu, ?_⟩
  obtain ⟨hterr, htfield⟩ | ⟨e, he, rfl⟩ := execFor_completes_or_raises ht
  · obtain ⟨huerr, hufield⟩ | ⟨e, he, -⟩ := execFor_completes_or_raises hu
    · exact ⟨huerr.trans hterr.symm, hufield.trans htfield.symm⟩
    · have hback : Raises Config.params s i e := he.setCrcs s.pkt.headerCrc s.pkt.dataCrc
      rw [hback.execFor_eq] at ht
      cases ht
      exact absurd hterr (errCode_ne_zero e)
  · rw [(he.setCrcs h d).execFor_eq] at hu
    cases hu
    exact ⟨rfl, rfl⟩

/-! ### What RDF shows -/

/-- RDF of every field id leaves the host the same DOUT, and the same OBUF where it writes it (R211, R212). -/
def RdfAgrees (s s' : State) : Prop :=
  ∀ (f : Byte) (t t' : State), exec (.rdf f) s = .next t → exec (.rdf f) s' = .next t' →
    t.err = 0 → hostRead t .dout = hostRead t' .dout ∧
      (f = 0 ∨ f = 6 ∨ f = 13 ∨ f = 16 → hostRead t .obuf = hostRead t' .obuf)

theorem RdfAgrees.getScalar_eq {s s' : State} (h : RdfAgrees s s') (x : ScalarField) :
    getScalar s.pkt x = getScalar s'.pkt x := by
  have hrdf (s : State) : exec (.rdf (scalarId x)) s = .next (done (s.setDout (getScalar s.pkt x))) :=
    rdfOp_next.2 (.inr (.inl ⟨.scalar x, _, fieldOfId_fieldId (.scalar x), rfl, rfl⟩))
  exact Value.scalar.inj (h _ _ _ (hrdf s) (hrdf s') rfl).1

theorem RdfAgrees.seq_eq {s s' : State} (h : RdfAgrees s s') {f : Field} {b b' : Bytes}
    (hb : readField s f = .seq b) (hb' : readField s' f = .seq b') (hcap : b.length ≤ Config.params.cap)
    (hcap' : b'.length ≤ Config.params.cap) : b = b' := by
  have hid : fieldId f = 0 ∨ fieldId f = 6 ∨ fieldId f = 13 ∨ fieldId f = 16 := by
    simpa using fieldId_of_readField_seq hb
  exact Value.seq.inj ((h _ _ _ (rdfOp_seq hb hcap) (rdfOp_seq hb' hcap') rfl).2 hid)

theorem eq_of_setWidth_eq {w v : Nat} (hw : w ≤ v) {x y : BitVec w} (h : x.setWidth v = y.setWidth v) : x = y := by
  rw [← BitVec.toNat_inj, ← BitVec.toNat_setWidth_of_le hw, h, BitVec.toNat_setWidth_of_le hw]

/-- R88: a packet is its scalar and its sequence fields. -/
theorem Packet.eq_of_fields {P Q : Packet} (hscalar : ∀ x, getScalar P x = getScalar Q x)
    (hseq : ∀ q, getSeq P q = getSeq Q q) : P = Q := by
  cases P
  cases Q
  simp only [Packet.mk.injEq]
  refine ⟨hseq .destPath, ?_, ?_, ?_, ?_, ?_, hseq .srcPath, ?_, ?_, ?_, hscalar .memAddr, ?_, ?_, hseq .data, ?_⟩
  exacts [eq_of_setWidth_eq (by decide) (hscalar .destLa), eq_of_setWidth_eq (by decide) (hscalar .packetType),
    eq_of_setWidth_eq (by decide) (hscalar .command), eq_of_setWidth_eq (by decide) (hscalar .srcAddrLen),
    eq_of_setWidth_eq (by decide) (hscalar .destKey), eq_of_setWidth_eq (by decide) (hscalar .srcLa),
    eq_of_setWidth_eq (by decide) (hscalar .tid), eq_of_setWidth_eq (by decide) (hscalar .extAddr),
    eq_of_setWidth_eq (by decide) (hscalar .dataLen), eq_of_setWidth_eq (by decide) (hscalar .headerCrc),
    eq_of_setWidth_eq (by decide) (hscalar .dataCrc)]

/-- Settles O43: RDF shows every scalar in DOUT and every sequence in OBUF, and the packet is made of them. -/
theorem rdfObservesTheWholePacket : Obligations.RdfObservesTheWholePacket := by
  intro s s' ⟨_, _, hpath, hsrc, hdata, hresp⟩ ⟨_, _, hpath', hsrc', hdata', hresp'⟩ (h : RdfAgrees s s')
  refine ⟨Packet.eq_of_fields h.getScalar_eq fun q => ?_, h.seq_eq (f := .respData) rfl rfl ?_ ?_⟩
  · refine h.seq_eq (f := .seq q) rfl rfl ?_ ?_ <;> cases q
    exacts [hpath, hsrc.trans (min_le_left _ _), hdata.trans (min_le_left _ _),
      hpath', hsrc'.trans (min_le_left _ _), hdata'.trans (min_le_left _ _)]
  · exact hresp.trans (min_le_left _ _)
  · exact hresp'.trans (min_le_left _ _)

end Sys2Proof.Machine
end

section
/-! PROOFS. Reset (`spec/70_reset_and_hazards.md` R270): the reset state, and NEW's way to it. -/

namespace Sys2Proof.Machine

/-- Settles O1: the reset values are those written out in `State.reset` and `Packet.empty`; NEW's writes, in the
completing case of its inversion lemma, are every other register's reset value. -/
theorem resetLoadsEveryResetValue : Obligations.ResetLoadsEveryResetValue :=
  ⟨fun _ => rfl, fun _ => execNew_next.2 (.inr ⟨rfl, rfl⟩)⟩

end Sys2Proof.Machine
end
